-- ==== Sys2Proof/Config.lean ====
section
/-! DEFINITION. The build parameters of the unit (00_scope.md R5 to R8, 10_state.md R30) and the free values of the
spec (43_divide.md R92). Every `Config` is a legal configuration: a width that is no power of two or is below 8, a native
width 0 and a depth 0 cannot be written (92_eei_decisions.md D2; 93_implementation_defined.md U12; log 2). -/

namespace Sys2Proof

/-- What is fixed when the unit is built. The innermost base integer is primitive and has `2^(3 + leaf)` bits. -/
structure Config where
  /-- The primitive base has `2^(3 + leaf)` bits. -/
  leaf : Nat
  /-- `DEPTH - 1`: the doubling levels between the primitive base and the unit's own base (R8). -/
  nest : Nat
  /-- `SIGNED` (R6). -/
  signed : Bool
  /-- `N - 1`, the native word width less one (R7: `N` is positive). -/
  native : Nat
deriving DecidableEq, Repr, Inhabited

/-- `W`, the base width: a power of two, at least 8 (R5). -/
def Config.W (c : Config) : Nat := 2 ^ (3 + c.leaf + c.nest)

/-- `D = 2W`, the total width (R5). -/
def Config.D (c : Config) : Nat := 2 * c.W

/-- `N`, the native word width (R7). -/
def Config.N (c : Config) : Nat := c.native + 1

/-- `DEPTH` (R8). -/
def Config.DEPTH (c : Config) : Nat := c.nest + 1

/-- The width of the innermost, primitive base: `W / 2^(DEPTH - 1)` (R8). -/
def Config.primitiveBits (c : Config) : Nat := 2 ^ (3 + c.leaf)

/-- The configuration of `State.reset`: `W = 8`, `SIGNED`, `N = 64`, `DEPTH = 1`.
DESIGN CHOICE (log 3), unsafe only to a statement about `State.reset` alone: the spec leaves the parameters open;
8 is the width of its vectors, 64 and 1 its defaults (R7, U16). -/
def Config.default : Config := ⟨0, 0, true, 63⟩

/-- `draw_d()`, the `k`-th value drawn: a `d`-bit pattern nothing constrains (R92, U3). It has no body: nothing can be
proved of it but its width. Free value, DESIGN CHOICE of form (log 4), safe. -/
opaque Config.draw (d k : Nat) : BitVec d

end Sys2Proof
end

