-- ==== Sys2Proof/Word.lean ====
section
/-! DEFINITION. The two shapes a value of the unit takes: a `Pair` of naturals as it stands on a port of
`2W` wires (the width `W` is a build parameter, so it is not part of the type), and a `Value w`, the pair of
`w`-bit patterns the datapath works on (00_scope.md R11). -/

namespace Sys2Proof

/-- A value as it is carried on a port or written in a command: `(high, low)` (R11, R21, R57). It is a value of a
unit of base width `w` when both limbs are below `2^w` (`Pair.fits`). -/
structure Pair where
  high : Nat
  low : Nat
deriving DecidableEq, Repr, Inhabited

/-- A value of a unit whose base width is `w`: two `w`-bit patterns (R11). -/
structure Value (w : Nat) where
  high : BitVec w
  low : BitVec w
deriving DecidableEq, Repr, Inhabited

/-- The pair `(0, 0)`, which stands on every result port an operation does not write (R51). -/
def Pair.zero : Pair := ⟨0, 0⟩

/-- Both limbs are `w`-bit patterns. -/
def Pair.fits (w : Nat) (p : Pair) : Bool := decide (p.high < 2 ^ w) && decide (p.low < 2 ^ w)

/-- `bits(x) = x.high || x.low` as a number (R11). -/
def Pair.bits (w : Nat) (p : Pair) : Nat := p.high * 2 ^ w + p.low

end Sys2Proof
end

