-- ==== Sys2Proof/Syntax.lean ====
section
/-! DEFINITION. The 33 operations of the unit (30_encoding.md R50), one constructor per row of the opcode table, each with
the operands it reads, in the order `a`, `b`, `c` (R47, R56). An operand a command does not read is no part of the
instruction. -/

namespace Sys2Proof

inductive Instr where
  -- 40_ordering.md
  | cmpeq (a b : Pair)
  | cmpne (a b : Pair)
  | cmplt (a b : Pair)
  | cmple (a b : Pair)
  | cmpgt (a b : Pair)
  | cmpge (a b : Pair)
  -- 41_magnitude_addsub.md
  | mag (a : Pair)
  | add (a b : Pair)
  | addT (a b : Pair)
  | sub (a b : Pair)
  | subT (a b : Pair)
  -- 42_multiply.md
  | mulfull (a b : Pair)
  | mul (a b : Pair)
  | mulT (a b : Pair)
  -- 43_divide.md
  | divrem (a b : Pair)
  | divremT (a b : Pair)
  | div (a b : Pair)
  | divT (a b : Pair)
  | rem (a b : Pair)
  | remT (a b : Pair)
  /-- `a` is the high half of the dividend, `b` the divisor, `c` the low half of the dividend (R98). -/
  | divfull (a b c : Pair)
  -- 44_bitwise.md
  | and (a b : Pair)
  | or (a b : Pair)
  | xor (a b : Pair)
  -- 45_shift.md
  | shl (a b : Pair)
  | shr (a b : Pair)
  | wshl (a b : Pair)
  | wshr (a b : Pair)
  -- 46_introspection.md
  | lzc (a : Pair)
  | tzc (a : Pair)
  | popc (a : Pair)
  | bswap (a : Pair)
  | word (a b : Pair)
deriving DecidableEq, Repr

end Sys2Proof
end

