-- ==== Sys2Proof/WellFormed.lean ====
section
/-! DEFINITION. When an instruction is one of a unit of the given configuration: every operand it carries is a pair of
`W`-bit patterns (00_scope.md R11; every such pair is a value, 30_encoding.md R53). -/

namespace Sys2Proof

/-- The operands an instruction reads, in the order `a`, `b`, `c` (R47, R56). -/
def Instr.operands : Instr → List Pair
  | .cmpeq a b => [a, b]
  | .cmpne a b => [a, b]
  | .cmplt a b => [a, b]
  | .cmple a b => [a, b]
  | .cmpgt a b => [a, b]
  | .cmpge a b => [a, b]
  | .mag a => [a]
  | .add a b => [a, b]
  | .addT a b => [a, b]
  | .sub a b => [a, b]
  | .subT a b => [a, b]
  | .mulfull a b => [a, b]
  | .mul a b => [a, b]
  | .mulT a b => [a, b]
  | .divrem a b => [a, b]
  | .divremT a b => [a, b]
  | .div a b => [a, b]
  | .divT a b => [a, b]
  | .rem a b => [a, b]
  | .remT a b => [a, b]
  | .divfull a b c => [a, b, c]
  | .and a b => [a, b]
  | .or a b => [a, b]
  | .xor a b => [a, b]
  | .shl a b => [a, b]
  | .shr a b => [a, b]
  | .wshl a b => [a, b]
  | .wshr a b => [a, b]
  | .lzc a => [a]
  | .tzc a => [a]
  | .popc a => [a]
  | .bswap a => [a]
  | .word a b => [a, b]

/-- Every operand fits the unit's limbs. -/
def Instr.wellFormed (c : Config) (i : Instr) : Bool := i.operands.all (Pair.fits c.W)

end Sys2Proof
end

