-- ==== Sys2Proof/Decode.lean ====
section
/-! DEFINITION. Format `C`, the command word (30_encoding.md R46), read and written; the opcode map (R50); the reserved
codes refused by name (R52). A command word is a number whose bit 0 is its least significant bit. Bits above the format's
`8 + 6W` are on no wire of the port and are not looked at (log 9). -/

namespace Sys2Proof

/-- Why a command word is no operation: its code is reserved (R52). The unit traps `ILLEGAL` on it. -/
inductive DecodeError where
  | reserved (op : Nat)
deriving DecidableEq, Repr

/-- `cmd[off + width - 1 : off]` (R10). -/
def cmdField (cmd off width : Nat) : Nat := cmd / 2 ^ off % 2 ^ width

/-- The code, `cmd[7:0]` (R46). -/
def cmdOp (cmd : Nat) : Nat := cmdField cmd 0 8

/-- Operand `a`: `a.low = cmd[8+W-1 : 8]`, `a.high = cmd[8+2W-1 : 8+W]` (R46). -/
def cmdA (c : Config) (cmd : Nat) : Pair :=
  ⟨cmdField cmd (8 + c.W) c.W, cmdField cmd 8 c.W⟩

/-- Operand `b`: `b.low = cmd[8+3W-1 : 8+2W]`, `b.high = cmd[8+4W-1 : 8+3W]` (R46). -/
def cmdB (c : Config) (cmd : Nat) : Pair :=
  ⟨cmdField cmd (8 + 3 * c.W) c.W, cmdField cmd (8 + 2 * c.W) c.W⟩

/-- Operand `c`: `c.low = cmd[8+5W-1 : 8+4W]`, `c.high = cmd[8+6W-1 : 8+5W]` (R46). -/
def cmdC (c : Config) (cmd : Nat) : Pair :=
  ⟨cmdField cmd (8 + 5 * c.W) c.W, cmdField cmd (8 + 4 * c.W) c.W⟩

/-- The length of a command word, `8 + 6W` (R45). -/
def cmdBits (c : Config) : Nat := 8 + 6 * c.W

/-- The operation a code selects, given the three operand fields (R47, R50); none of the 223 reserved codes (R52). -/
def decodeOp (op : Nat) (a b c : Pair) : Except DecodeError Instr :=
  match op with
  | 0x10 => .ok (.cmpeq a b)
  | 0x11 => .ok (.cmpne a b)
  | 0x12 => .ok (.cmplt a b)
  | 0x13 => .ok (.cmple a b)
  | 0x14 => .ok (.cmpgt a b)
  | 0x15 => .ok (.cmpge a b)
  | 0x20 => .ok (.mag a)
  | 0x22 => .ok (.add a b)
  | 0x23 => .ok (.addT a b)
  | 0x24 => .ok (.sub a b)
  | 0x25 => .ok (.subT a b)
  | 0x30 => .ok (.mulfull a b)
  | 0x32 => .ok (.mul a b)
  | 0x33 => .ok (.mulT a b)
  | 0x40 => .ok (.divrem a b)
  | 0x41 => .ok (.divremT a b)
  | 0x42 => .ok (.div a b)
  | 0x43 => .ok (.divT a b)
  | 0x44 => .ok (.rem a b)
  | 0x45 => .ok (.remT a b)
  | 0x47 => .ok (.divfull a b c)
  | 0x50 => .ok (.and a b)
  | 0x51 => .ok (.or a b)
  | 0x52 => .ok (.xor a b)
  | 0x60 => .ok (.shl a b)
  | 0x61 => .ok (.shr a b)
  | 0x62 => .ok (.wshl a b)
  | 0x63 => .ok (.wshr a b)
  | 0x70 => .ok (.lzc a)
  | 0x71 => .ok (.tzc a)
  | 0x72 => .ok (.popc a)
  | 0x73 => .ok (.bswap a)
  | 0x74 => .ok (.word a b)
  | n => .error (.reserved n)

/-- The instruction a command word is (R46, R50), or its reserved code (R52). Total on every number. -/
def decode (c : Config) (cmd : Nat) : Except DecodeError Instr :=
  decodeOp (cmdOp cmd) (cmdA c cmd) (cmdB c cmd) (cmdC c cmd)

/-- The operation code (R50). -/
def Instr.opcode : Instr → Nat
  | .cmpeq _ _ => 0x10
  | .cmpne _ _ => 0x11
  | .cmplt _ _ => 0x12
  | .cmple _ _ => 0x13
  | .cmpgt _ _ => 0x14
  | .cmpge _ _ => 0x15
  | .mag _ => 0x20
  | .add _ _ => 0x22
  | .addT _ _ => 0x23
  | .sub _ _ => 0x24
  | .subT _ _ => 0x25
  | .mulfull _ _ => 0x30
  | .mul _ _ => 0x32
  | .mulT _ _ => 0x33
  | .divrem _ _ => 0x40
  | .divremT _ _ => 0x41
  | .div _ _ => 0x42
  | .divT _ _ => 0x43
  | .rem _ _ => 0x44
  | .remT _ _ => 0x45
  | .divfull _ _ _ => 0x47
  | .and _ _ => 0x50
  | .or _ _ => 0x51
  | .xor _ _ => 0x52
  | .shl _ _ => 0x60
  | .shr _ _ => 0x61
  | .wshl _ _ => 0x62
  | .wshr _ _ => 0x63
  | .lzc _ => 0x70
  | .tzc _ => 0x71
  | .popc _ => 0x72
  | .bswap _ => 0x73
  | .word _ _ => 0x74

/-- The `k`-th operand an instruction carries, `(0, 0)` where it carries none (R56: operand fields not written are encoded
as zero). -/
def Instr.operandOrZero (i : Instr) (k : Nat) : Pair := i.operands.getD k Pair.zero

/-- `cmd = bits(c) || bits(b) || bits(a) || op` (R46). -/
def cmdWord (c : Config) (op : Nat) (pa pb pc : Pair) : Nat :=
  op + 2 ^ 8 * (pa.bits c.W + 2 ^ c.D * (pb.bits c.W + 2 ^ c.D * pc.bits c.W))

/-- The command word of an instruction (R46, R56). -/
def encode (c : Config) (i : Instr) : Nat :=
  cmdWord c i.opcode (i.operandOrZero 0) (i.operandOrZero 1) (i.operandOrZero 2)

/-- What the decoder reads from a command whose low `nbits` bits are `w` and whose other bits are 0, in a unit of the reset
configuration. -/
def decodeTableWord (nbits w : Nat) : Option Instr :=
  match decode Config.default (w % 2 ^ nbits) with
  | .ok i => some i
  | .error _ => none

end Sys2Proof
end

