-- ==== Sys2Proof/Machine/Operands.lean ====
section
/-! DEFINITION. How values are read (00_scope.md R9 to R13), the base primitives (R15), magnitude (41_magnitude_addsub.md R71),
zero and population counts, byte order, and the word view of a value (46_introspection.md). Everything here is a function of
patterns; the unit's parameters `w` and `signed` are arguments. -/

namespace Sys2Proof

/-! ### Reading limbs and values -/

/-- `bval(h) = s_W(h) if SIGNED else u_W(h)` (R11). -/
def bval (signed : Bool) {w : Nat} (h : BitVec w) : Int :=
  if signed then h.toInt else (h.toNat : Int)

/-- `u_D(bits(x))` (R10, R11). -/
def Value.unsigned {w : Nat} (x : Value w) : Nat := x.high.toNat * 2 ^ w + x.low.toNat

/-- `val(x) = bval(x.high) * 2^W + u_W(x.low)` (R11). -/
def Value.val (signed : Bool) {w : Nat} (x : Value w) : Int :=
  bval signed x.high * 2 ^ w + (x.low.toNat : Int)

/-- `bits(x) = x.high || x.low`, `D` bits (R11). -/
def Value.bits {w : Nat} (x : Value w) : BitVec (w + w) := x.high ++ x.low

/-- `isneg(x)` (R12). -/
def Value.isneg (signed : Bool) {w : Nat} (x : Value w) : Bool := signed && x.high.msb

/-- The value whose `D` bits are those of `n mod 2^D`; `packu(n)` for `n < 2^D` (R13). -/
def Value.packu (w n : Nat) : Value w := ⟨BitVec.ofNat w (n / 2 ^ w), BitVec.ofNat w n⟩

/-- `pack(v)`: low limb `v mod 2^W`, high limb `floor(v / 2^W) mod 2^W` (R13). -/
def Value.pack (w : Nat) (v : Int) : Value w := ⟨BitVec.ofInt w (v / 2 ^ w), BitVec.ofInt w v⟩

/-- `(0, 0)`. -/
def Value.zero (w : Nat) : Value w := ⟨0, 0⟩

/-- The value a port carries: the wires of its two limbs (R21). -/
def Value.ofPair (w : Nat) (p : Pair) : Value w := ⟨BitVec.ofNat w p.high, BitVec.ofNat w p.low⟩

/-- The value as it is put on a port (R21, R23). -/
def Value.toPair {w : Nat} (x : Value w) : Pair := ⟨x.high.toNat, x.low.toNat⟩

/-- A free `D`-bit pattern, `draw_D()` (43_divide.md R92). -/
def Value.draw (w k : Nat) : Value w := Value.packu w (Config.draw (2 * w) k).toNat

/-! ### Constants (R9) -/

/-- `MAX` of a type of `d` bits. -/
def maxOf (signed : Bool) (d : Nat) : Int := if signed then 2 ^ (d - 1) - 1 else 2 ^ d - 1

/-- `MIN` of a type of `d` bits. -/
def minOf (signed : Bool) (d : Nat) : Int := if signed then -2 ^ (d - 1) else 0

/-- `MAX` of the unit. -/
def Config.MAX (c : Config) : Int := maxOf c.signed c.D

/-- `MIN` of the unit. -/
def Config.MIN (c : Config) : Int := minOf c.signed c.D

/-- `BMAX`, the pattern of `Base.max`. -/
def bmax (signed : Bool) (w : Nat) : BitVec w := BitVec.ofInt w (maxOf signed w)

/-- `BMIN`, the pattern of `Base.min`. -/
def bmin (signed : Bool) (w : Nat) : BitVec w := BitVec.ofInt w (minOf signed w)

/-! ### Base primitives (R15) -/

/-- `addU`: the sum and the carry. -/
def addU {w : Nat} (x y : BitVec w) : BitVec w × Bool :=
  let t := x.toNat + y.toNat
  (BitVec.ofNat w t, decide (2 ^ w ≤ t))

/-- `subU`: the difference and the borrow. -/
def subU {w : Nat} (x y : BitVec w) : BitVec w × Bool :=
  let t : Int := (x.toNat : Int) - (y.toNat : Int)
  (BitVec.ofInt w t, decide (t < 0))

/-- Narrow an exact `w`-bit base result, and say whether it does not fit: the flag `o` of `addB` and `subB`. -/
def narrowB (signed : Bool) (w : Nat) (t : Int) : BitVec w × Bool :=
  (BitVec.ofInt w t, !decide (bval signed (bmin signed w) ≤ t ∧ t ≤ bval signed (bmax signed w)))

/-- `addB` of a primitive base. -/
def addB (signed : Bool) {w : Nat} (x y : BitVec w) : BitVec w × Bool :=
  narrowB signed w (bval signed x + bval signed y)

/-- `subB` of a primitive base. -/
def subB (signed : Bool) {w : Nat} (x y : BitVec w) : BitVec w × Bool :=
  narrowB signed w (bval signed x - bval signed y)

/-- `incB(x, k)`, `k` a carry. -/
def incB {w : Nat} (x : BitVec w) (k : Bool) : BitVec w := BitVec.ofNat w (x.toNat + k.toNat)

/-- `decB(x, k)`, `k` a borrow. -/
def decB {w : Nat} (x : BitVec w) (k : Bool) : BitVec w :=
  BitVec.ofInt w ((x.toNat : Int) - (k.toNat : Int))

/-- `mulU`: the exact product, below `2^(2W)`. -/
def mulU {w : Nat} (x y : BitVec w) : Nat := x.toNat * y.toNat

/-- `shlW`; applied only to counts below `w` (R16). -/
def shlW {w : Nat} (x : BitVec w) (k : Nat) : BitVec w := BitVec.ofNat w (x.toNat * 2 ^ k)

/-- `shrU`, logical; applied only to counts below `w` (R16). -/
def shrU {w : Nat} (x : BitVec w) (k : Nat) : BitVec w := BitVec.ofNat w (x.toNat / 2 ^ k)

/-- `shrB`, arithmetic if signed, logical if not; applied only to counts below `w` (R16). -/
def shrB (signed : Bool) {w : Nat} (x : BitVec w) (k : Nat) : BitVec w :=
  BitVec.ofInt w (bval signed x / 2 ^ k)

/-- `ltB`. -/
def ltB (signed : Bool) {w : Nat} (x y : BitVec w) : Bool := decide (bval signed x < bval signed y)

/-- `ltU`. -/
def ltU {w : Nat} (x y : BitVec w) : Bool := decide (x.toNat < y.toNat)

/-- `lzc_n`: the zero bits of `x` above its highest one bit, at width `n`; `n` if `x` is 0 (R15, R116). -/
def lzcN : Nat → Nat → Nat
  | 0, _ => 0
  | n + 1, x => if x.testBit n then 0 else 1 + lzcN n x

/-- `tzc_n`: the zero bits of `x` below its lowest one bit, at width `n`; `n` if `x` is 0 (R15). -/
def tzcN : Nat → Nat → Nat
  | 0, _ => 0
  | n + 1, x => if x.testBit 0 then 0 else 1 + tzcN n (x / 2)

/-- `pop_n`: the one bits among the low `n` bits of `x` (R15). -/
def popN : Nat → Nat → Nat
  | 0, _ => 0
  | n + 1, x => x % 2 + popN n (x / 2)

/-- The low `k` bytes of `x` in reversed order: byte `j` goes to position `k - 1 - j` (R15). -/
def bswN : Nat → Nat → Nat
  | 0, _ => 0
  | k + 1, x => x % 256 * 256 ^ k + bswN k (x / 256)

/-- `lzcW`. -/
def lzcW {w : Nat} (x : BitVec w) : Nat := lzcN w x.toNat

/-- `tzcW`. -/
def tzcW {w : Nat} (x : BitVec w) : Nat := tzcN w x.toNat

/-- `popW`. -/
def popW {w : Nat} (x : BitVec w) : Nat := popN w x.toNat

/-- `bswW`: byte `k` of the result is byte `W/8 - 1 - k` of `x`. -/
def bswW {w : Nat} (x : BitVec w) : BitVec w := BitVec.ofNat w (bswN (w / 8) x.toNat)

/-! ### Magnitude, sign fill, bytes -/

/-- `mag(a)`, read unsigned: the two's-complement negation of a negative value, limb by limb (R71). -/
def Value.mag (signed : Bool) {w : Nat} (a : Value w) : Value w :=
  if a.isneg signed then
    let (l, cy) := addU (~~~a.low) 1
    ⟨incB (~~~a.high) cy, l⟩
  else a

/-- `fill(a)`: all ones if `a` is negative, zero otherwise (45_shift.md R105). -/
def Value.fill (signed : Bool) {w : Nat} (a : Value w) : BitVec w :=
  if a.isneg signed then BitVec.allOnes w else 0

/-- Byte `k` of a value, `bits(x)[8k+7 : 8k]` (20_memory.md R36). -/
def Value.byte {w : Nat} (x : Value w) (k : Nat) : Nat := x.unsigned / 2 ^ (8 * k) % 2 ^ 8

/-- The truth value of a comparison: `(0, 1)` or `(0, 0)` (40_ordering.md R60). -/
def Value.truth (w : Nat) (p : Bool) : Value w := if p then ⟨0, 1⟩ else ⟨0, 0⟩

/-- A count on a result port: `(0, count)` (46_introspection.md R115). -/
def Value.count (w n : Nat) : Value w := ⟨0, BitVec.ofNat w n⟩

end Sys2Proof
end

