-- ==== Sys2Proof/Machine/Flags.lean ====
section
/-! DEFINITION. Every overflow flag of the unit and the limb rules that compute it: add and subtract (41_magnitude_addsub.md
R72, R74, and R78 for a nested base), multiply (42_multiply.md R82), the divisions (43_divide.md R90, R98). The flags are
those of the limb rules, not mathematical overflow (90_conflicts.md C4). -/

namespace Sys2Proof

/-- A value of twice the width of its halves: the pattern `x` of a nested base, as the pair it is (R8). -/
def Value.split {w : Nat} (x : BitVec w) : Value (w / 2) := Value.packu (w / 2) x.toNat

/-- The `w`-bit pattern of a value of half-width limbs (R8). -/
def Value.join (w : Nat) (x : Value (w / 2)) : BitVec w := BitVec.ofNat w x.unsigned

/-- The limb rule of ADD over a given high-limb addition: low limbs, high limbs, then the carry; the flag is the high-limb
overflow, or `h0 = BMAX` with a carry pending (R72, D16). -/
def addLimbs (signed : Bool) {w : Nat} (hiAdd : BitVec w → BitVec w → BitVec w × Bool) (a b : Value w) :
    Value w × Bool :=
  let (l, cy) := addU a.low b.low
  let (h0, ho) := hiAdd a.high b.high
  (⟨incB h0 cy, l⟩, ho || (h0 == bmax signed w && cy))

/-- The limb rule of SUB over a given high-limb subtraction (R74). -/
def subLimbs (signed : Bool) {w : Nat} (hiSub : BitVec w → BitVec w → BitVec w × Bool) (a b : Value w) :
    Value w × Bool :=
  let (l, bw) := subU a.low b.low
  let (h0, ho) := hiSub a.high b.high
  (⟨decB h0 bw, l⟩, ho || (h0 == bmin signed w && bw))

/-- `addB` of a base nested `n` levels deep: the primitive one at level 0, the lower level's ADD, flag included, above it
(R8, R78). -/
def addBase (signed : Bool) : Nat → (w : Nat) → BitVec w → BitVec w → BitVec w × Bool
  | 0, _, x, y => addB signed x y
  | n + 1, w, x, y =>
    let (v, o) := addLimbs signed (addBase signed n (w / 2)) (Value.split x) (Value.split y)
    (Value.join w v, o)

/-- `subB` of a base nested `n` levels deep (R8, R78). -/
def subBase (signed : Bool) : Nat → (w : Nat) → BitVec w → BitVec w → BitVec w × Bool
  | 0, _, x, y => subB signed x y
  | n + 1, w, x, y =>
    let (v, o) := subLimbs signed (subBase signed n (w / 2)) (Value.split x) (Value.split y)
    (Value.join w v, o)

/-- ADD: the partial value and the flag (R72). -/
def Value.add (signed : Bool) (nest : Nat) {w : Nat} (a b : Value w) : Value w × Bool :=
  addLimbs signed (addBase signed nest w) a b

/-- SUB: the partial value and the flag (R74). -/
def Value.sub (signed : Bool) (nest : Nat) {w : Nat} (a b : Value w) : Value w × Bool :=
  subLimbs signed (subBase signed nest w) a b

/-- `negx`: the operands' signs differ, in a signed unit (R80). -/
def negx (signed : Bool) {w : Nat} (a b : Value w) : Bool := a.isneg signed != b.isneg signed

/-- MUL's flag from the halves `hi`, `lo` of the full product: (a) the discarded high half, against all ones when a negative
result is expected and against zero when not; (b) the sign boundary (R82, D17). -/
def mulOvf (signed neg : Bool) {w : Nat} (hi lo : Value w) : Bool :=
  let carried := if neg then hi.bits != BitVec.allOnes (w + w) else hi.bits != 0
  let posover := signed && !neg && lo.high.msb
  carried || posover

/-- `divov(a, b)`: a zero divisor, or `MIN` by `-1` in a signed unit (R90). -/
def divov (signed : Bool) {w : Nat} (a b : Value w) : Bool :=
  b.bits == 0 || (signed && decide (b.val signed = -1) && decide (a.val signed = minOf signed (2 * w)))

/-- The OVERFLOW test of DIVFULL, `divov` at quadruple width (R98). -/
def divfullOvf (signed : Bool) (w : Nat) (nv bv : Int) : Bool :=
  decide (bv = 0) || (signed && decide (bv = -1) && decide (nv = minOf signed (4 * w)))

/-- The NARROW test of DIVFULL: the quotient is outside `[MIN, MAX]` (R98). -/
def outOfRange (signed : Bool) (d : Nat) (q : Int) : Bool :=
  !decide (minOf signed d ≤ q ∧ q ≤ maxOf signed d)

end Sys2Proof
end

