-- ==== Sys2Proof/Machine/State.lean ====
section
/-! DEFINITION. The state of the unit: its one register `STATUS` (10_state.md R25), the ports through which the host
drives it (R21 to R24), its build parameters (R30), and the model's counter of free values. There are no general registers
(R20), no program counter (R28), no memory (20_memory.md R35) and no hidden state (R34). -/

namespace Sys2Proof.Machine

/-- The trap causes (60_exceptions.md R131). -/
inductive Cause where
  /-- The trapping forms and DIVFULL. -/
  | overflow
  /-- DIVFULL: the quotient is no value of the unit's type. -/
  | narrow
  /-- WORD: `N` and `W` do not divide one another. -/
  | wordcfg
  /-- WORD: the index names no word. -/
  | wordidx
  /-- A reserved code. -/
  | illegal
deriving DecidableEq, Repr

/-- What the host sends: a command word (30_encoding.md R46) or a reset (70_reset_and_hazards.md R150). -/
inductive Input where
  | command (cmd : Nat)
  | reset
deriving DecidableEq, Repr

/-- The response ports after a command (30_encoding.md R48): `STATUS` as the ports `trap` and `cause` (10_state.md R25), the
flag (R24), the two results (R23). -/
structure Response where
  trap : Bool
  cause : BitVec 3
  ovf : Bool
  r : Pair
  s : Pair
deriving DecidableEq, Repr

/-- The machine never stops with a fault: what the spec calls a trap is a next state in which `STATUS.FAULT` is set
(60_exceptions.md R132), and so is the refusal of a command after it (R133). So there is no constructor. -/
inductive Fault where
deriving DecidableEq, Repr

/-- The reasons for which an instruction has no meaning. -/
inductive Refusal where
  /-- An instruction the model gives no meaning: raised by no arm of `exec` (every instruction is modelled). Safe. -/
  | notModelled (mnemonic : String)
deriving DecidableEq, Repr

structure State where
  /-- The build parameters (R5 to R8, R30): no step changes them (log 2). -/
  cfg : Config
  /-- `STATUS`: bit 0 is `FAULT`, bits 3..1 are `CAUSE` (R25). -/
  status : BitVec 4
  /-- The host's events not yet taken, oldest first: the command port and the reset input (R29, R150; log 1). -/
  inputs : List Input
  /-- The answer to the latest command; `none` between a reset and the next command (R33, R152; log 6). -/
  response : Option Response
  /-- The model's own: how many free values have been drawn (R92; log 4). No statement rests on its value. -/
  draws : Nat
deriving DecidableEq, Repr

/-- A unit of configuration `c` right after reset (R33, R151), nothing waiting on its command port. -/
def State.resetOf (c : Config) : State :=
  { cfg := c, status := 0, inputs := [], response := none, draws := 0 }

/-- The machine right after reset, with the parameters of `Config.default` (DESIGN CHOICE, log 3). -/
def State.reset : State := State.resetOf Config.default

end Sys2Proof.Machine
end

