-- ==== Sys2Proof/Machine/Ops.lean ====
section
/-! DEFINITION. The named operations over the state: reading `STATUS`, reading an operand port, answering a command, taking a
trap (60_exceptions.md R132), refusing a command after a trap (R133), reset (70_reset_and_hazards.md R151), and what the host
puts on the command port. There is no return from a trap (R134): reset is the only way out. -/

namespace Sys2Proof.Machine

/-! ### STATUS (10_state.md R25) -/

/-- The code of a cause (R131). -/
def Cause.code : Cause → BitVec 3
  | .overflow => 1
  | .narrow => 2
  | .wordcfg => 3
  | .wordidx => 4
  | .illegal => 5

/-- `STATUS.FAULT = STATUS[0]`, the port `trap`. -/
def State.fault (s : State) : Bool := s.status.getLsbD 0

/-- `STATUS.CAUSE = STATUS[3:1]`, the port `cause`. -/
def State.cause (s : State) : BitVec 3 := s.status.extractLsb' 1 3

/-- `STATUS` with `FAULT = 1` and the given `CAUSE`. -/
def statusOf (code : BitVec 3) : BitVec 4 := code ++ (1 : BitVec 1)

/-! ### Operands and results -/

/-- The value on an operand port of this unit (R21). -/
def State.operand (s : State) (p : Pair) : Value s.cfg.W := Value.ofPair s.cfg.W p

/-- What an operation does when it is performed: it completes with the two results, the flag and the number of free values
it drew, or it raises a trap. -/
inductive Effect (w : Nat) where
  | done (r s : Value w) (ovf : Bool) (drawn : Nat)
  | trap (cause : Cause)
deriving DecidableEq, Repr

/-- The answer of an operation that completes: `STATUS` as it is, the flag, the results (R23, R24, R48). -/
def State.complete (s : State) (r v : Value s.cfg.W) (ovf : Bool) (drawn : Nat) : State :=
  { s with
    response := some { trap := s.fault, cause := s.cause, ovf := ovf, r := r.toPair, s := v.toPair }
    draws := s.draws + drawn }

/-- Trap entry (R132): `FAULT` set, `CAUSE` recorded, the response zeroed; nothing is saved and control goes nowhere. -/
def State.trapEntry (s : State) (c : Cause) : State :=
  { s with
    status := statusOf c.code
    response := some { trap := true, cause := c.code, ovf := false, r := Pair.zero, s := Pair.zero } }

/-- A command refused because `FAULT = 1` (R133): `STATUS` unchanged, the response zeroed. -/
def State.refuse (s : State) : State :=
  { s with response := some { trap := true, cause := s.cause, ovf := false, r := Pair.zero, s := Pair.zero } }

/-- Performing an operation: refused while `FAULT = 1`, before anything else is looked at (R133, R135). -/
def State.perform (s : State) (e : Effect s.cfg.W) : State :=
  if s.fault then s.refuse
  else match e with
    | .done r v ovf drawn => s.complete r v ovf drawn
    | .trap c => s.trapEntry c

/-! ### The forms of an operation (41_magnitude_addsub.md R70) -/

/-- An operation with one result, no flag and no trap (30_encoding.md R51). -/
def plain {w : Nat} (r : Value w) : Effect w := .done r (Value.zero w) false 0

/-- An operation with two results, no flag and no trap. -/
def plain2 {w : Nat} (r v : Value w) : Effect w := .done r v false 0

/-- The reporting form: the partial value with its flag. -/
def reporting {w : Nat} (x : Value w × Bool) : Effect w := .done x.1 (Value.zero w) x.2 0

/-- The trapping form: OVERFLOW exactly when the reporting form sets the flag, else the same value. -/
def trapping {w : Nat} (x : Value w × Bool) : Effect w :=
  if x.2 then .trap .overflow else plain x.1

/-! ### Reset and the command port -/

/-- Reset (R151): `STATUS` cleared, no response (R152), nothing else. The counter of free values goes on, so that nothing is
drawn twice (log 4). -/
def State.resetUnit (s : State) : State := { s with status := 0, response := none }

/-- The command port after the host's next event has been taken. -/
def State.take (s : State) (rest : List Input) : State := { s with inputs := rest }

/-- A command put on the port, to be performed next. -/
def State.issue (s : State) (cmd : Nat) : State := { s with inputs := .command cmd :: s.inputs }

/-- The response word, format `P`: `rsp = bits(s) || bits(r) || 000 || ovf || cause || trap` (30_encoding.md R48). -/
def Response.word (c : Config) (ρ : Response) : Nat :=
  ρ.trap.toNat + 2 * (ρ.cause.toNat + 2 ^ 3 * (ρ.ovf.toNat + 2 * (2 ^ 3 * (ρ.r.bits c.W + 2 ^ c.D * ρ.s.bits c.W))))

end Sys2Proof.Machine
end

