-- ==== Sys2Proof/Machine/AddSub.lean ====
section
/-! DEFINITION. Magnitude, add and subtract (41_magnitude_addsub.md): MAG, ADD, ADD.T, SUB, SUB.T. -/

namespace Sys2Proof.Machine

/-- MAG (R71): the result is read unsigned. -/
def execMag (a : Pair) (s : State) : Host.Outcome State Fault Refusal :=
  .next (s.perform (plain ((s.operand a).mag s.cfg.signed)))

/-- ADD, reporting (R72). -/
def execAdd (a b : Pair) (s : State) : Host.Outcome State Fault Refusal :=
  .next (s.perform (reporting ((s.operand a).add s.cfg.signed s.cfg.nest (s.operand b))))

/-- ADD.T, trapping (R73). -/
def execAddT (a b : Pair) (s : State) : Host.Outcome State Fault Refusal :=
  .next (s.perform (trapping ((s.operand a).add s.cfg.signed s.cfg.nest (s.operand b))))

/-- SUB, reporting (R74). -/
def execSub (a b : Pair) (s : State) : Host.Outcome State Fault Refusal :=
  .next (s.perform (reporting ((s.operand a).sub s.cfg.signed s.cfg.nest (s.operand b))))

/-- SUB.T, trapping (R75). -/
def execSubT (a b : Pair) (s : State) : Host.Outcome State Fault Refusal :=
  .next (s.perform (trapping ((s.operand a).sub s.cfg.signed s.cfg.nest (s.operand b))))

end Sys2Proof.Machine
end

