-- ==== Sys2Proof/Machine/Bitwise.lean ====
section
/-! DEFINITION. The bitwise operators (44_bitwise.md): AND, OR, XOR, limb by limb (R100). -/

namespace Sys2Proof.Machine

/-- A function of two limbs applied to both pairs of limbs (R100). -/
def limbwise {w : Nat} (f : BitVec w → BitVec w → BitVec w) (a b : Value w) : Value w :=
  ⟨f a.high b.high, f a.low b.low⟩

/-- AND (R101). -/
def execAnd (a b : Pair) (s : State) : Host.Outcome State Fault Refusal :=
  .next (s.perform (plain (limbwise (· &&& ·) (s.operand a) (s.operand b))))

/-- OR (R102). -/
def execOr (a b : Pair) (s : State) : Host.Outcome State Fault Refusal :=
  .next (s.perform (plain (limbwise (· ||| ·) (s.operand a) (s.operand b))))

/-- XOR (R103). -/
def execXor (a b : Pair) (s : State) : Host.Outcome State Fault Refusal :=
  .next (s.perform (plain (limbwise (· ^^^ ·) (s.operand a) (s.operand b))))

end Sys2Proof.Machine
end

