-- ==== Sys2Proof/Machine/Divide.lean ====
section
/-! DEFINITION. Divide and remainder (43_divide.md): DIVREM, DIVREM.T, DIV, DIV.T, REM, REM.T, DIVFULL. -/

namespace Sys2Proof.Machine

/-- The divider's loop from bit `i - 1` down to bit 0: shift the remainder left bringing in the next dividend bit, subtract
the divisor and set the quotient bit when it fits (R91). Answers (quotient, remainder). -/
def divLoop (x y : Nat) : Nat → Nat → Nat → Nat × Nat
  | 0, rem, q => (q, rem)
  | i + 1, rem, q =>
    let rem' := 2 * rem + (x.testBit i).toNat
    if y ≤ rem' then divLoop x y i (rem' - y) (q + 2 ^ i) else divLoop x y i rem' q

/-- `divmag(x, y, n)`: binary long division of unsigned `n`-bit integers, from the aligned position down (R91). -/
def divmag (x y n : Nat) : Nat × Nat :=
  if lzcN n y < lzcN n x then (0, x)
  else
    let k := lzcN n y - lzcN n x
    divLoop x y (k + 1) (x / 2 ^ (k + 1)) 0

/-- The `d`-bit pattern of `m`, or of `-m` (R91). -/
def signedPattern (d : Nat) (neg : Bool) (m : Nat) : Nat := if neg then (2 ^ d - m) % 2 ^ d else m

/-- `divcore(a, b)`: the quotient is negated iff exactly one operand is negative, the remainder takes the dividend's sign
(R91). -/
def divcore (signed : Bool) {w : Nat} (a b : Value w) : Value w × Value w :=
  let qr := divmag (a.mag signed).unsigned (b.mag signed).unsigned (2 * w)
  (Value.packu w (signedPattern (2 * w) (a.isneg signed != b.isneg signed) qr.1),
   Value.packu w (signedPattern (2 * w) (a.isneg signed) qr.2))

/-- DIVREM, reporting (R92). When it overflows both results are free values: U3, log 4. -/
def execDivrem (a b : Pair) (s : State) : Host.Outcome State Fault Refusal :=
  let x := s.operand a
  let y := s.operand b
  .next (s.perform (
    if divov s.cfg.signed x y then .done (Value.draw _ s.draws) (Value.draw _ (s.draws + 1)) true 2
    else plain2 (divcore s.cfg.signed x y).1 (divcore s.cfg.signed x y).2))

/-- DIVREM.T, trapping (R93). -/
def execDivremT (a b : Pair) (s : State) : Host.Outcome State Fault Refusal :=
  let x := s.operand a
  let y := s.operand b
  .next (s.perform (
    if divov s.cfg.signed x y then .trap .overflow
    else plain2 (divcore s.cfg.signed x y).1 (divcore s.cfg.signed x y).2))

/-- DIV, reporting (R94). When it overflows the result is a free value: U3, log 4. -/
def execDiv (a b : Pair) (s : State) : Host.Outcome State Fault Refusal :=
  let x := s.operand a
  let y := s.operand b
  .next (s.perform (
    if divov s.cfg.signed x y then .done (Value.draw _ s.draws) (Value.zero _) true 1
    else plain (divcore s.cfg.signed x y).1))

/-- DIV.T, trapping (R95). -/
def execDivT (a b : Pair) (s : State) : Host.Outcome State Fault Refusal :=
  let x := s.operand a
  let y := s.operand b
  .next (s.perform (
    if divov s.cfg.signed x y then .trap .overflow else plain (divcore s.cfg.signed x y).1))

/-- REM, reporting (R96): the remainder on `r`. When it overflows the result is a free value: U3, log 4. -/
def execRem (a b : Pair) (s : State) : Host.Outcome State Fault Refusal :=
  let x := s.operand a
  let y := s.operand b
  .next (s.perform (
    if divov s.cfg.signed x y then .done (Value.draw _ s.draws) (Value.zero _) true 1
    else plain (divcore s.cfg.signed x y).2))

/-- REM.T, trapping (R97). -/
def execRemT (a b : Pair) (s : State) : Host.Outcome State Fault Refusal :=
  let x := s.operand a
  let y := s.operand b
  .next (s.perform (
    if divov s.cfg.signed x y then .trap .overflow else plain (divcore s.cfg.signed x y).2))

/-- The dividend of DIVFULL, promoted: `val(a) * 2^D + u_D(bits(c))` (R98). -/
def promoted (signed : Bool) {w : Nat} (a c : Value w) : Int :=
  a.val signed * 2 ^ (2 * w) + (c.unsigned : Int)

/-- DIVFULL on values: OVERFLOW is tested first, then NARROW (R98, R135). -/
def divfull (signed : Bool) {w : Nat} (a b c : Value w) : Effect w :=
  let nv := promoted signed a c
  let bv := b.val signed
  if divfullOvf signed w nv bv then .trap .overflow
  else
    let qr := divmag nv.natAbs bv.natAbs (4 * w)
    let q : Int := if decide (nv < 0) != decide (bv < 0) then -(qr.1 : Int) else qr.1
    let m : Int := if nv < 0 then -(qr.2 : Int) else qr.2
    if outOfRange signed (2 * w) q then .trap .narrow else plain2 (Value.pack w q) (Value.pack w m)

/-- DIVFULL (R98). -/
def execDivfull (a b c : Pair) (s : State) : Host.Outcome State Fault Refusal :=
  .next (s.perform (divfull s.cfg.signed (s.operand a) (s.operand b) (s.operand c)))

end Sys2Proof.Machine
end

