-- ==== Sys2Proof/Machine/Introspection.lean ====
section
/-! DEFINITION. Bit introspection (46_introspection.md): LZC, TZC, POPC, BSWAP, WORD. -/

namespace Sys2Proof.Machine

/-- The leading-zero count of a value, limb by limb (R116). -/
def leadingZeros {w : Nat} (a : Value w) : Nat := if a.high = 0 then w + lzcW a.low else lzcW a.high

/-- The trailing-zero count of a value, limb by limb (R117). -/
def trailingZeros {w : Nat} (a : Value w) : Nat := if a.low = 0 then w + tzcW a.high else tzcW a.low

/-- The population count of a value (R118). -/
def population {w : Nat} (a : Value w) : Nat := popW a.high + popW a.low

/-- Byte-order reversal: limbs exchanged, each reversed (R119). -/
def byteSwap {w : Nat} (a : Value w) : Value w := ⟨bswW a.low, bswW a.high⟩

/-- LZC (R116). -/
def execLzc (a : Pair) (s : State) : Host.Outcome State Fault Refusal :=
  .next (s.perform (plain (Value.count _ (leadingZeros (s.operand a)))))

/-- TZC (R117). -/
def execTzc (a : Pair) (s : State) : Host.Outcome State Fault Refusal :=
  .next (s.perform (plain (Value.count _ (trailingZeros (s.operand a)))))

/-- POPC (R118). -/
def execPopc (a : Pair) (s : State) : Host.Outcome State Fault Refusal :=
  .next (s.perform (plain (Value.count _ (population (s.operand a)))))

/-- BSWAP (R119). -/
def execBswap (a : Pair) (s : State) : Host.Outcome State Fault Refusal :=
  .next (s.perform (plain (byteSwap (s.operand a))))

/-- The configuration WORD supports: one of `N` and `W` divides the other (R121). -/
def wordSupported (n w : Nat) : Bool := decide (n ∣ w) || decide (w ∣ n)

/-- The number of words of a value (R120). -/
def wordCount (n w : Nat) : Nat := if w < n then 1 else 2 * w / n

/-- The `N`-bit word `w` of index `i`, whole: the value extended by its sign or by zeros when the base is narrower than a
word, else `bits(a)[N*(i+1)-1 : N*i]` (R120; G1, log 12). -/
def wordAt (signed : Bool) (n : Nat) {w : Nat} (a : Value w) (i : Nat) : BitVec n :=
  if w < n then (if signed then a.bits.signExtend n else a.bits.setWidth n)
  else BitVec.ofNat n (a.unsigned / 2 ^ (n * i))

/-- WORD on values (R120): WORDCFG is tested first, then WORDIDX (R135); `r` carries the word, or its low `D` bits (C8). -/
def wordExtract (signed : Bool) (n : Nat) {w : Nat} (a b : Value w) : Effect w :=
  if !wordSupported n w then .trap .wordcfg
  else if wordCount n w ≤ b.unsigned then .trap .wordidx
  else plain (Value.packu w (wordAt signed n a b.unsigned).toNat)

/-- WORD (R120). -/
def execWord (a b : Pair) (s : State) : Host.Outcome State Fault Refusal :=
  .next (s.perform (wordExtract s.cfg.signed s.cfg.N (s.operand a) (s.operand b)))

end Sys2Proof.Machine
end

