-- ==== Sys2Proof/Machine/Multiply.lean ====
section
/-! DEFINITION. Multiply (42_multiply.md): MULFULL, MUL, MUL.T. -/

namespace Sys2Proof.Machine

/-- The full product's bits as a number below `2^(4W)`: the four cross products of the magnitudes' limbs summed, and negated
at `4W` bits when the signs differ (R81). -/
def fullProduct (signed : Bool) {w : Nat} (a b : Value w) : Nat :=
  let ma := a.mag signed
  let mb := b.mag signed
  let m := mulU ma.low mb.low + (mulU ma.low mb.high + mulU ma.high mb.low) * 2 ^ w
    + mulU ma.high mb.high * 2 ^ (2 * w)
  if negx signed a b then (2 ^ (4 * w) - m) % 2 ^ (4 * w) else m

/-- The high half of the product, `M[4W-1 : 2W]` (R81). -/
def mulHigh (signed : Bool) {w : Nat} (a b : Value w) : Value w :=
  Value.packu w (fullProduct signed a b / 2 ^ (2 * w))

/-- The low half of the product, `M[2W-1 : 0]` (R81). -/
def mulLow (signed : Bool) {w : Nat} (a b : Value w) : Value w := Value.packu w (fullProduct signed a b)

/-- The low half with MUL's flag (R82). -/
def mulReport (signed : Bool) {w : Nat} (a b : Value w) : Value w × Bool :=
  (mulLow signed a b, mulOvf signed (negx signed a b) (mulHigh signed a b) (mulLow signed a b))

/-- MULFULL (R81): `r` the low half, `s` the high half. -/
def execMulfull (a b : Pair) (s : State) : Host.Outcome State Fault Refusal :=
  .next (s.perform (plain2 (mulLow s.cfg.signed (s.operand a) (s.operand b))
    (mulHigh s.cfg.signed (s.operand a) (s.operand b))))

/-- MUL, reporting (R82). -/
def execMul (a b : Pair) (s : State) : Host.Outcome State Fault Refusal :=
  .next (s.perform (reporting (mulReport s.cfg.signed (s.operand a) (s.operand b))))

/-- MUL.T, trapping (R83). -/
def execMulT (a b : Pair) (s : State) : Host.Outcome State Fault Refusal :=
  .next (s.perform (trapping (mulReport s.cfg.signed (s.operand a) (s.operand b))))

end Sys2Proof.Machine
end

