-- ==== Sys2Proof/Machine/Ordering.lean ====
section
/-! DEFINITION. The comparator (40_ordering.md): CMPEQ, CMPNE, CMPLT, CMPLE, CMPGT, CMPGE. -/

namespace Sys2Proof.Machine

/-- `eq(a, b)`: both limbs equal (R60). -/
def eqLimbs {w : Nat} (a b : Value w) : Bool := a.high == b.high && a.low == b.low

/-- `lt(a, b)`: the high limbs in the base's own order, on a tie the low limbs unsigned (R60). -/
def ltLimbs (signed : Bool) {w : Nat} (a b : Value w) : Bool :=
  ltB signed a.high b.high || (a.high == b.high && ltU a.low b.low)

/-- CMPEQ (R61). -/
def execCmpeq (a b : Pair) (s : State) : Host.Outcome State Fault Refusal :=
  .next (s.perform (plain (Value.truth _ (eqLimbs (s.operand a) (s.operand b)))))

/-- CMPNE (R62). -/
def execCmpne (a b : Pair) (s : State) : Host.Outcome State Fault Refusal :=
  .next (s.perform (plain (Value.truth _ (!eqLimbs (s.operand a) (s.operand b)))))

/-- CMPLT (R63). -/
def execCmplt (a b : Pair) (s : State) : Host.Outcome State Fault Refusal :=
  .next (s.perform (plain (Value.truth _ (ltLimbs s.cfg.signed (s.operand a) (s.operand b)))))

/-- CMPLE (R64). -/
def execCmple (a b : Pair) (s : State) : Host.Outcome State Fault Refusal :=
  .next (s.perform (plain (Value.truth _
    (ltLimbs s.cfg.signed (s.operand a) (s.operand b) || eqLimbs (s.operand a) (s.operand b)))))

/-- CMPGT (R65). -/
def execCmpgt (a b : Pair) (s : State) : Host.Outcome State Fault Refusal :=
  .next (s.perform (plain (Value.truth _ (ltLimbs s.cfg.signed (s.operand b) (s.operand a)))))

/-- CMPGE (R66). -/
def execCmpge (a b : Pair) (s : State) : Host.Outcome State Fault Refusal :=
  .next (s.perform (plain (Value.truth _
    (ltLimbs s.cfg.signed (s.operand b) (s.operand a) || eqLimbs (s.operand a) (s.operand b)))))

end Sys2Proof.Machine
end

