-- ==== Sys2Proof/Machine/Shift.lean ====
section
/-! DEFINITION. The barrel shifter (45_shift.md): WSHL, WSHR (wrapping), SHL, SHR (saturating). -/

namespace Sys2Proof.Machine

/-- The amount of a wrapping shift: `bits(b)[log2(D)-1 : 0]` (R105). -/
def maskedAmount {w : Nat} (b : Value w) : Nat := b.unsigned % 2 ^ Nat.log2 (2 * w)

/-- The funnel shift left by `m < D` (R106). -/
def funnelLeft {w : Nat} (a : Value w) (m : Nat) : Value w :=
  if m = 0 then a
  else if m < w then ⟨shlW a.high m ||| shrU a.low (w - m), shlW a.low m⟩
  else if m = w then ⟨a.low, 0⟩
  else ⟨shlW a.low (m - w), 0⟩

/-- The funnel shift right by `m < D`; the vacated limb takes the sign fill (R107, C1). -/
def funnelRight (signed : Bool) {w : Nat} (a : Value w) (m : Nat) : Value w :=
  if m = 0 then a
  else if m < w then ⟨shrB signed a.high m, shrU a.low m ||| shlW a.high (w - m)⟩
  else if m = w then ⟨a.fill signed, a.high⟩
  else ⟨a.fill signed, shrB signed a.high (m - w)⟩

/-- `left(a, k)` (R108). -/
def satLeft {w : Nat} (a : Value w) (k : Nat) : Value w :=
  if 2 * w ≤ k then Value.zero w
  else if k = w then ⟨a.low, 0⟩
  else funnelLeft a k

/-- `right(a, k)` (R108). -/
def satRight (signed : Bool) {w : Nat} (a : Value w) (k : Nat) : Value w :=
  if 2 * w ≤ k then ⟨a.fill signed, a.fill signed⟩
  else if k = w then ⟨a.fill signed, a.high⟩
  else funnelRight signed a k

/-- SHL of a value by an integer amount; a negative one shifts the other way by its magnitude (R108). -/
def shiftLeft (signed : Bool) {w : Nat} (a : Value w) (n : Int) : Value w :=
  if 0 ≤ n then satLeft a n.natAbs else satRight signed a n.natAbs

/-- SHR of a value by an integer amount (R109). -/
def shiftRight (signed : Bool) {w : Nat} (a : Value w) (n : Int) : Value w :=
  if 0 ≤ n then satRight signed a n.natAbs else satLeft a n.natAbs

/-- SHL (R108): the amount is `val(b)`. -/
def execShl (a b : Pair) (s : State) : Host.Outcome State Fault Refusal :=
  .next (s.perform (plain (shiftLeft s.cfg.signed (s.operand a) ((s.operand b).val s.cfg.signed))))

/-- SHR (R109): the amount is `val(b)`. -/
def execShr (a b : Pair) (s : State) : Host.Outcome State Fault Refusal :=
  .next (s.perform (plain (shiftRight s.cfg.signed (s.operand a) ((s.operand b).val s.cfg.signed))))

/-- WSHL (R106). -/
def execWshl (a b : Pair) (s : State) : Host.Outcome State Fault Refusal :=
  .next (s.perform (plain (funnelLeft (s.operand a) (maskedAmount (s.operand b)))))

/-- WSHR (R107). -/
def execWshr (a b : Pair) (s : State) : Host.Outcome State Fault Refusal :=
  .next (s.perform (plain (funnelRight s.cfg.signed (s.operand a) (maskedAmount (s.operand b)))))

end Sys2Proof.Machine
end

