-- ==== Sys2Proof/Machine/Dispatch.lean ====
section
/-! DEFINITION. One arm per operation, each one call of its meaning. -/

namespace Sys2Proof.Machine

/-- What an instruction does (30_encoding.md R50 names the rule of each). -/
def exec (i : Instr) (s : State) : Host.Outcome State Fault Refusal :=
  match i with
  | .cmpeq a b => Sys2Proof.Machine.execCmpeq a b s
  | .cmpne a b => Sys2Proof.Machine.execCmpne a b s
  | .cmplt a b => Sys2Proof.Machine.execCmplt a b s
  | .cmple a b => Sys2Proof.Machine.execCmple a b s
  | .cmpgt a b => Sys2Proof.Machine.execCmpgt a b s
  | .cmpge a b => Sys2Proof.Machine.execCmpge a b s
  | .mag a => Sys2Proof.Machine.execMag a s
  | .add a b => Sys2Proof.Machine.execAdd a b s
  | .addT a b => Sys2Proof.Machine.execAddT a b s
  | .sub a b => Sys2Proof.Machine.execSub a b s
  | .subT a b => Sys2Proof.Machine.execSubT a b s
  | .mulfull a b => Sys2Proof.Machine.execMulfull a b s
  | .mul a b => Sys2Proof.Machine.execMul a b s
  | .mulT a b => Sys2Proof.Machine.execMulT a b s
  | .divrem a b => Sys2Proof.Machine.execDivrem a b s
  | .divremT a b => Sys2Proof.Machine.execDivremT a b s
  | .div a b => Sys2Proof.Machine.execDiv a b s
  | .divT a b => Sys2Proof.Machine.execDivT a b s
  | .rem a b => Sys2Proof.Machine.execRem a b s
  | .remT a b => Sys2Proof.Machine.execRemT a b s
  | .divfull a b c => Sys2Proof.Machine.execDivfull a b c s
  | .and a b => Sys2Proof.Machine.execAnd a b s
  | .or a b => Sys2Proof.Machine.execOr a b s
  | .xor a b => Sys2Proof.Machine.execXor a b s
  | .shl a b => Sys2Proof.Machine.execShl a b s
  | .shr a b => Sys2Proof.Machine.execShr a b s
  | .wshl a b => Sys2Proof.Machine.execWshl a b s
  | .wshr a b => Sys2Proof.Machine.execWshr a b s
  | .lzc a => Sys2Proof.Machine.execLzc a s
  | .tzc a => Sys2Proof.Machine.execTzc a s
  | .popc a => Sys2Proof.Machine.execPopc a s
  | .bswap a => Sys2Proof.Machine.execBswap a s
  | .word a b => Sys2Proof.Machine.execWord a b s

end Sys2Proof.Machine
end

