-- ==== Sys2Proof/Machine/Command.lean ====
section
/-! DEFINITION. What the unit does with the command on its port: decode it and perform the operation, or trap ILLEGAL on a
reserved code (30_encoding.md R52). -/

namespace Sys2Proof.Machine

/-- A reserved code: trap ILLEGAL, unless `FAULT = 1` already (R52, R133, R135). -/
def execReserved (e : DecodeError) (s : State) : Host.Outcome State Fault Refusal :=
  match e with
  | .reserved _ => .next (s.perform (.trap .illegal))

/-- A command performed whole (20_memory.md R41). -/
def performCommand (cmd : Nat) (s : State) : Host.Outcome State Fault Refusal :=
  match decode s.cfg cmd with
  | .ok i => exec i s
  | .error e => execReserved e s

/-- The state in which the command word whose low `nbits` bits are `w`, the others 0, is the next event. -/
def State.withCommand (s : State) (nbits w : Nat) : State := s.issue (w % 2 ^ nbits)

end Sys2Proof.Machine
end

