-- ==== Sys2Proof/Machine/Step.lean ====
section
/-! DEFINITION. One step: the unit takes the host's next event (10_state.md R29, 70_reset_and_hazards.md R150). -/

namespace Sys2Proof.Machine

/-- One event of the host. A command is performed (R29); a reset clears `STATUS` (R151); with nothing waiting the unit holds its
state (R140, log 7). -/
def step (s : State) : Host.Outcome State Fault Refusal :=
  match s.inputs with
  | [] => .next s
  | .reset :: rest => .next (s.take rest).resetUnit
  | .command cmd :: rest => performCommand cmd (s.take rest)

/-- The instruction whose table bits are `w`, put on the command port ahead of whatever waits there, so that the very next step
performs it (log 8). -/
def State.withFetchWord (s : State) (nbits w : Nat) : State := s.withCommand nbits w

end Sys2Proof.Machine
end

