-- ==== Sys2Proof/Machine/Assembly.lean ====
section
/-! DEFINITION. The notation of commands, responses and values (30_encoding.md R56, R57, R59): mnemonics, operands in the order
`a`, `b`, `c`, numerals, and words in hexadecimal. The unit itself does none of this; it is how a host writes what it sends.
Texts of words and lines are lists of characters or strings. -/

namespace Sys2Proof

/-- The mnemonic of an operation (R50, R56). -/
def Instr.mnemonic : Instr → String
  | .cmpeq _ _ => "CMPEQ"
  | .cmpne _ _ => "CMPNE"
  | .cmplt _ _ => "CMPLT"
  | .cmple _ _ => "CMPLE"
  | .cmpgt _ _ => "CMPGT"
  | .cmpge _ _ => "CMPGE"
  | .mag _ => "MAG"
  | .add _ _ => "ADD"
  | .addT _ _ => "ADD.T"
  | .sub _ _ => "SUB"
  | .subT _ _ => "SUB.T"
  | .mulfull _ _ => "MULFULL"
  | .mul _ _ => "MUL"
  | .mulT _ _ => "MUL.T"
  | .divrem _ _ => "DIVREM"
  | .divremT _ _ => "DIVREM.T"
  | .div _ _ => "DIV"
  | .divT _ _ => "DIV.T"
  | .rem _ _ => "REM"
  | .remT _ _ => "REM.T"
  | .divfull _ _ _ => "DIVFULL"
  | .and _ _ => "AND"
  | .or _ _ => "OR"
  | .xor _ _ => "XOR"
  | .shl _ _ => "SHL"
  | .shr _ _ => "SHR"
  | .wshl _ _ => "WSHL"
  | .wshr _ _ => "WSHR"
  | .lzc _ => "LZC"
  | .tzc _ => "TZC"
  | .popc _ => "POPC"
  | .bswap _ => "BSWAP"
  | .word _ _ => "WORD"

/-- The instruction a mnemonic and the operands it is written with stand for (R56); none where the mnemonic is not one of R50 or
the operands are not those it reads. -/
def assemble (mnemonic : String) (operands : List Pair) : Option Instr :=
  match operands with
  | [a] =>
    match mnemonic with
    | "MAG" => some (.mag a)
    | "LZC" => some (.lzc a)
    | "TZC" => some (.tzc a)
    | "POPC" => some (.popc a)
    | "BSWAP" => some (.bswap a)
    | _ => none
  | [a, b] =>
    match mnemonic with
    | "CMPEQ" => some (.cmpeq a b)
    | "CMPNE" => some (.cmpne a b)
    | "CMPLT" => some (.cmplt a b)
    | "CMPLE" => some (.cmple a b)
    | "CMPGT" => some (.cmpgt a b)
    | "CMPGE" => some (.cmpge a b)
    | "ADD" => some (.add a b)
    | "ADD.T" => some (.addT a b)
    | "SUB" => some (.sub a b)
    | "SUB.T" => some (.subT a b)
    | "MULFULL" => some (.mulfull a b)
    | "MUL" => some (.mul a b)
    | "MUL.T" => some (.mulT a b)
    | "DIVREM" => some (.divrem a b)
    | "DIVREM.T" => some (.divremT a b)
    | "DIV" => some (.div a b)
    | "DIV.T" => some (.divT a b)
    | "REM" => some (.rem a b)
    | "REM.T" => some (.remT a b)
    | "AND" => some (.and a b)
    | "OR" => some (.or a b)
    | "XOR" => some (.xor a b)
    | "SHL" => some (.shl a b)
    | "SHR" => some (.shr a b)
    | "WSHL" => some (.wshl a b)
    | "WSHR" => some (.wshr a b)
    | "WORD" => some (.word a b)
    | _ => none
  | [a, b, c] => if mnemonic = "DIVFULL" then some (.divfull a b c) else none
  | _ => none

/-- A limb written as an integer: `k` with `0 <= k < 2^W`, or, for the high limb of a signed unit, `-k` with
`1 <= k <= 2^(W-1)` (R57). -/
def limbNumeral (c : Config) (isHigh : Bool) (k : Int) : Option Nat :=
  if 0 ≤ k ∧ k < 2 ^ c.W then some k.toNat
  else if (isHigh && c.signed) = true ∧ -2 ^ (c.W - 1) ≤ k ∧ k < 0 then some (k + 2 ^ c.W).toNat
  else none

/-- `(high, low)` with its limbs written as integers (R57). -/
def pairNumeral (c : Config) (high low : Int) : Option Pair :=
  match limbNumeral c true high, limbNumeral c false low with
  | some h, some l => some ⟨h, l⟩
  | _, _ => none

/-- The shorthand `#v`, `pack(v)` (R57, R13). -/
def hashNumeral (c : Config) (v : Int) : Option Pair :=
  if c.MIN ≤ v ∧ v ≤ c.MAX then some (Value.pack c.W v).toPair else none

/-- The shorthand `#u:v`, `packu(v)` (R57, R13). -/
def hashUNumeral (c : Config) (n : Nat) : Option Pair :=
  if n < 2 ^ c.D then some (Value.packu c.W n).toPair else none

/-- `n` hexadecimal digits of a number, the most significant first (R59). -/
def hexDigits : Nat → Nat → List Char
  | 0, _ => []
  | n + 1, x => hexDigits n (x / 16) ++ [Nat.digitChar (x % 16)]

/-- Upper-case form of a hexadecimal text, as the spec prints it. -/
def hexText (n x : Nat) : List Char := (hexDigits n x).map Char.toUpper

/-- A command word as `0x`, then `c_b_a_op` in hexadecimal (R59). -/
def commandText (c : Config) (cmd : Nat) : List Char :=
  ['0', 'x'] ++ hexText (c.D / 4) ((cmdC c cmd).bits c.W) ++ ['_'] ++ hexText (c.D / 4) ((cmdB c cmd).bits c.W)
    ++ ['_'] ++ hexText (c.D / 4) ((cmdA c cmd).bits c.W) ++ ['_'] ++ hexText 2 (cmdOp cmd)

/-- A response as `0x`, then `s_r_flags` in hexadecimal (R59). -/
def responseText (c : Config) (ρ : Machine.Response) : List Char :=
  ['0', 'x'] ++ hexText (c.D / 4) (ρ.s.bits c.W) ++ ['_'] ++ hexText (c.D / 4) (ρ.r.bits c.W)
    ++ ['_'] ++ hexText 2 (ρ.word c % 2 ^ 8)

/-- A pair as `(high, low)` (R57). -/
def Pair.text (p : Pair) : String := "(" ++ toString p.high ++ ", " ++ toString p.low ++ ")"

/-- A command as one line, `MNEMONIC a, b, c` (R56). -/
def Instr.text (i : Instr) : String :=
  i.mnemonic ++ " " ++ ", ".intercalate (i.operands.map Pair.text)

/-- Whether an operation writes `s` (R50's results column). -/
def Instr.writesS : Instr → Bool
  | .mulfull _ _ => true
  | .divrem _ _ => true
  | .divremT _ _ => true
  | .divfull _ _ _ => true
  | _ => false

/-- Whether an operation writes `ovf` (R50's results column). -/
def Instr.writesOvf : Instr → Bool
  | .add _ _ => true
  | .sub _ _ => true
  | .mul _ _ => true
  | .divrem _ _ => true
  | .div _ _ => true
  | .rem _ _ => true
  | _ => false

/-- The name of a cause code (R131). -/
def causeName (code : BitVec 3) : String :=
  match code.toNat with
  | 1 => "OVERFLOW"
  | 2 => "NARROW"
  | 3 => "WORDCFG"
  | 4 => "WORDIDX"
  | 5 => "ILLEGAL"
  | _ => ""

/-- A response as it is written after `->`: the fields the operation writes, or `trap CAUSE` (R56). -/
def responseLine (i : Instr) (ρ : Machine.Response) : String :=
  if ρ.trap then "trap " ++ causeName ρ.cause
  else "r=" ++ ρ.r.text ++ (if i.writesS then ", s=" ++ ρ.s.text else "")
    ++ (if i.writesOvf then ", ovf=" ++ (if ρ.ovf then "1" else "0") else "")

end Sys2Proof
end

