-- ==== Sys2Proof/Safety.lean ====
section
/-! DEFINITION. The words statements are made in: which states are legal, what a state looks like after an answer, a trap or a
refusal (written out in full, apart from the operations the meanings use), the overflow conditions of the spec, and which
codes are reserved. -/

namespace Sys2Proof.Machine

/-! ### Legal states -/

/-- A legal `STATUS` (10_state.md R25): `CAUSE` is 0 to 5, and 0 exactly while `FAULT = 0`. -/
abbrev State.LegalStatus (s : State) : Prop :=
  s.cause.toNat ≤ 5 ∧ (s.fault = false ↔ s.cause.toNat = 0)

/-- A legal response (30_encoding.md R48): the results fit their ports, and with `trap = 1` the flag and the results are zero. -/
abbrev Response.Legal (c : Config) (ρ : Response) : Prop :=
  ρ.r.fits c.W = true ∧ ρ.s.fits c.W = true ∧
    (ρ.trap = true → ρ.ovf = false ∧ ρ.r = Pair.zero ∧ ρ.s = Pair.zero)

/-- The invariant of the unit: `STATUS` is legal; with no response yet it is 0 (R33); a response is legal and shows `STATUS`
as it stands (R25, R48). -/
def State.Inv (s : State) : Prop :=
  s.LegalStatus ∧ (s.response = none → s.status = 0) ∧
    ∀ ρ, s.response = some ρ → ρ.Legal s.cfg ∧ ρ.trap = s.fault ∧ ρ.cause = s.cause

/-! ### The state after a command, in full -/

/-- The command answered with results `r` and `v` and flag `ovf`; `STATUS` and all else as before. -/
def State.answered (s : State) (r v : Value s.cfg.W) (ovf : Bool) : State :=
  { cfg := s.cfg, status := s.status, inputs := s.inputs, draws := s.draws,
    response := some ⟨false, s.status.extractLsb' 1 3, ovf, ⟨r.high.toNat, r.low.toNat⟩, ⟨v.high.toNat, v.low.toNat⟩⟩ }

/-- The trap with the given cause code taken (60_exceptions.md R132); all else as before. -/
def State.trapped (s : State) (code : Nat) : State :=
  { cfg := s.cfg, status := BitVec.ofNat 4 (1 + 2 * code), inputs := s.inputs, draws := s.draws,
    response := some ⟨true, BitVec.ofNat 3 code, false, ⟨0, 0⟩, ⟨0, 0⟩⟩ }

/-- The command refused (60_exceptions.md R133); all else as before. -/
def State.refusedAs (s : State) : State :=
  { cfg := s.cfg, status := s.status, inputs := s.inputs, draws := s.draws,
    response := some ⟨true, s.status.extractLsb' 1 3, false, ⟨0, 0⟩, ⟨0, 0⟩⟩ }

/-! ### Overflow in the mathematical sense, and where a flag differs from it -/

/-- `not (MIN <= t <= MAX)` for a type of `d` bits: `TO_add`, `TO_sub`, `TO_mul` (41_magnitude_addsub.md R77, 42_multiply.md R85). -/
def trueOverflow (signed : Bool) (d : Nat) (t : Int) : Bool :=
  decide (t < minOf signed d ∨ maxOf signed d < t)

/-- The operands on which signed ADD flags an exact sum (R77). -/
def addFalseAlarm (signed : Bool) {w : Nat} (a b : Value w) : Bool :=
  signed && decide (a.high.toInt + b.high.toInt = -2 ^ (w - 1) - 1) && decide (2 ^ w ≤ a.low.toNat + b.low.toNat)

/-- The operands on which signed SUB flags an exact difference (R77). -/
def subFalseAlarm (signed : Bool) {w : Nat} (a b : Value w) : Bool :=
  signed && decide (a.high.toInt - b.high.toInt = 2 ^ (w - 1)) && decide (a.low.toNat < b.low.toNat)

/-- The false alarm of signed ADD in a unit over primitive limbs of `p` bits, whatever its DEPTH: the exact sum of the topmost
primitive limbs is just below their range and the bits below them carry. It is what R78 makes of R77 level by level; at
DEPTH 1 the topmost primitive limb is the high limb and this is `addFalseAlarm`. -/
def nestedAddFalseAlarm (signed : Bool) (p : Nat) {w : Nat} (a b : Value w) : Bool :=
  let below := 2 * w - p
  signed && decide (a.val signed / 2 ^ below + b.val signed / 2 ^ below = -2 ^ (p - 1) - 1)
    && decide (2 ^ below ≤ a.unsigned % 2 ^ below + b.unsigned % 2 ^ below)

/-- The false alarm of signed SUB in a unit over primitive limbs of `p` bits, whatever its DEPTH: the exact difference of the
topmost primitive limbs is just above their range and the bits below them borrow (R77, R78). -/
def nestedSubFalseAlarm (signed : Bool) (p : Nat) {w : Nat} (a b : Value w) : Bool :=
  let below := 2 * w - p
  signed && decide (a.val signed / 2 ^ below - b.val signed / 2 ^ below = 2 ^ (p - 1))
    && decide (a.unsigned % 2 ^ below < b.unsigned % 2 ^ below)

/-- MUL's flag as a condition on the operands and their product (R85): outside `[-2^D, -1]` when the operands' signs differ in a
signed unit, else outside `[MIN, MAX]`. -/
def mulFlagged (signed : Bool) {w : Nat} (a b : Value w) : Bool :=
  let p := a.val signed * b.val signed
  if signed && (decide (a.val signed < 0) != decide (b.val signed < 0)) then
    decide (p < -2 ^ (2 * w) ∨ -1 < p)
  else trueOverflow signed (2 * w) p

/-- The divisions' overflow on integers: a zero divisor, or `MIN` by `-1` (43_divide.md R90). -/
def divOverflow (signed : Bool) (d : Nat) (x y : Int) : Bool :=
  decide (y = 0) || (signed && decide (y = -1) && decide (x = minOf signed d))

/-! ### Codes and instructions by kind -/

/-- The reserved codes, as the ranges of 30_encoding.md R52. -/
def reservedCode (op : Nat) : Bool :=
  decide (op ≤ 0x0F) || decide (0x16 ≤ op ∧ op ≤ 0x1F) || decide (op = 0x21) || decide (0x26 ≤ op ∧ op ≤ 0x2F)
    || decide (op = 0x31) || decide (0x34 ≤ op ∧ op ≤ 0x3F) || decide (op = 0x46) || decide (0x48 ≤ op ∧ op ≤ 0x4F)
    || decide (0x53 ≤ op ∧ op ≤ 0x5F) || decide (0x64 ≤ op ∧ op ≤ 0x6F) || decide (0x75 ≤ op ∧ op ≤ 0xFF)

/-- Codes whose operation reads `a` only (R47). -/
def readsOnlyA (op : Nat) : Bool :=
  decide (op = 0x20) || decide (op = 0x70) || decide (op = 0x71) || decide (op = 0x72) || decide (op = 0x73)

/-- The operations that can trap: the trapping forms, DIVFULL and WORD (60_exceptions.md R139). -/
def canTrap : Instr → Bool
  | .addT _ _ => true
  | .subT _ _ => true
  | .mulT _ _ => true
  | .divremT _ _ => true
  | .divT _ _ => true
  | .remT _ _ => true
  | .divfull _ _ _ => true
  | .word _ _ => true
  | _ => false

/-- The operations that can draw free values: the reporting divisions (10_state.md R34, 43_divide.md R92). -/
def canDraw : Instr → Bool
  | .divrem _ _ => true
  | .div _ _ => true
  | .rem _ _ => true
  | _ => false

/-- No reset among the host's next `k` events. -/
def noReset (k : Nat) (s : State) : Prop := Input.reset ∉ s.inputs.take k

end Sys2Proof.Machine
end

