-- ==== Sys2Proof/Certificates/Slice0/Obligations.lean ====
section
/-! DEFINITION. The statements about the unit. Each docstring says in words what the Lean says and names the rules of spec/ it
rests on; `s.answered`, `s.trapped` and `s.refusedAs` (Sys2Proof/Safety.lean) are whole states written out, so that an equation
with one of them is also the frame. -/

open Sys2Proof Sys2Proof.Machine

/-- At W = 8 and W = 16, one word per family, written out bit by bit from format C and the opcode map, decodes to its
instruction. (R46, R50, R47.) -/
def Obligations.DecodesSampleWords : Prop :=
  decode Config.default 0x0000_00FF_0100_12 = .ok (.cmplt ⟨1, 0⟩ ⟨0, 0xFF⟩) ∧
  decode Config.default 0x0000_00FF_0100_22 = .ok (.add ⟨1, 0⟩ ⟨0, 0xFF⟩) ∧
  decode Config.default 0x0000_5678_1234_30 = .ok (.mulfull ⟨0x12, 0x34⟩ ⟨0x56, 0x78⟩) ∧
  decode Config.default 0x0060_5678_0626_47 = .ok (.divfull ⟨0x06, 0x26⟩ ⟨0x56, 0x78⟩ ⟨0, 0x60⟩) ∧
  decode Config.default 0x0000_AA0F_F03C_52 = .ok (.xor ⟨0xF0, 0x3C⟩ ⟨0xAA, 0x0F⟩) ∧
  decode Config.default 0x0000_0004_8234_61 = .ok (.shr ⟨0x82, 0x34⟩ ⟨0, 4⟩) ∧
  decode Config.default 0x0000_0000_1234_73 = .ok (.bswap ⟨0x12, 0x34⟩) ∧
  decode ⟨1, 0, false, 7⟩ 0x00000000_00000003_12345678_74 = .ok (.word ⟨0x1234, 0x5678⟩ ⟨0, 3⟩)

/-- For every configuration c and every instruction i whose operands fit the limbs of c: decode c (encode c i) = i. No
operand bit is dropped at any width. (R46, R47, R50, R56.) -/
def Obligations.DecodeOfEncodeIsIdentity : Prop :=
  ∀ (c : Config) (i : Instr), i.wellFormed c = true → decode c (encode c i) = .ok i

/-- If cmd is at most 8 + 6W bits long, decodes to i, and every operand field its code does not read is zero, then encode
c i = cmd: each such word is one instruction and each instruction one such word. (R46, R47, R56.) -/
def Obligations.EncodeOfDecodeIsIdentityOnCanonicalWords : Prop :=
  ∀ (c : Config) (cmd : Nat) (i : Instr), decode c cmd = .ok i → cmd < 2 ^ (8 + 6 * c.W) →
    (readsOnlyA (cmd % 256) = true → cmdB c cmd = ⟨0, 0⟩) → (cmd % 256 ≠ 0x47 → cmdC c cmd = ⟨0, 0⟩) →
    encode c i = cmd

/-- If decode c cmd = i then every operand of i fits the limbs of c, the code of i is cmd[7:0], and the operands of i are
an initial part of the list of the three operand fields of cmd. (R46, R47, R50, R53.) -/
def Obligations.DecodedOperandsAreTheReadFields : Prop :=
  ∀ (c : Config) (cmd : Nat) (i : Instr), decode c cmd = .ok i →
    i.wellFormed c = true ∧ i.opcode = cmd % 256 ∧ i.operands <+: [cmdA c cmd, cmdB c cmd, cmdC c cmd]

/-- Two commands with the same code whose read fields agree (a; b unless the code reads a only; c for DIVFULL only) decode
to the same instruction or the same reserved code, and in every state, faulted or not, the step on the one is the step
on the other: STATUS and response are the same. WSHL and WSHR answer the same for two amounts with the same low
log2(D) bits. That the values an overflowing reporting division draws are the same on both sides rests on log 4, the
model's choice (the state holds the counter they come from), not on a rule. (R47, R52, R133.) -/
def Obligations.UnreadFieldsAreIgnored : Prop :=
  (∀ (c : Config) (x y : Nat), x % 256 = y % 256 → cmdA c x = cmdA c y →
    (readsOnlyA (x % 256) = true ∨ cmdB c x = cmdB c y) → (x % 256 = 0x47 → cmdC c x = cmdC c y) →
    decode c x = decode c y) ∧
  (∀ (s : State) (rest : List Input) (x y : Nat), x % 256 = y % 256 → cmdA s.cfg x = cmdA s.cfg y →
    (readsOnlyA (x % 256) = true ∨ cmdB s.cfg x = cmdB s.cfg y) → (x % 256 = 0x47 → cmdC s.cfg x = cmdC s.cfg y) →
    step { s with inputs := .command x :: rest } = step { s with inputs := .command y :: rest }) ∧
  (∀ (s : State) (a b b' : Pair),
    (s.operand b).unsigned % s.cfg.D = (s.operand b').unsigned % s.cfg.D →
    exec (.wshl a b) s = exec (.wshl a b') s ∧ exec (.wshr a b) s = exec (.wshr a b') s)

/-- For every command word, decode answers the refusal that names cmd[7:0] if and only if that code is in the reserved
ranges of R52; otherwise it answers an instruction. (R50, R52.) -/
def Obligations.DecodeRefusesExactlyReservedCodes : Prop :=
  ∀ (c : Config) (cmd : Nat),
    (reservedCode (cmd % 256) = true → decode c cmd = .error (.reserved (cmd % 256))) ∧
    (reservedCode (cmd % 256) = false → ∃ i, decode c cmd = .ok i)

/-- In every state with FAULT = 0 whose next event is a command with a reserved code, the step answers the state with
STATUS = (1, 5) and the trap response; the configuration and the later events are as before. (R52.) -/
def Obligations.ReservedCodesTrapIllegal : Prop :=
  ∀ (s : State) (cmd : Nat) (rest : List Input), s.fault = false → s.inputs = .command cmd :: rest →
    reservedCode (cmd % 256) = true → step s = .next (State.trapped { s with inputs := rest } 5)

/-- If the next event is the command cmd and cmd decodes to i, then step is exec of i in the state with that event taken
from the port. The second clause says the same of the state withFetchWord gives, which puts such a command first: it
is log 8, the model's choice, that withFetchWord stands for the host's next command, and no rule speaks of it. (R29,
R41, R46.) -/
def Obligations.CommandStepRunsTheDecodedInstruction : Prop :=
  (∀ (s : State) (cmd : Nat) (rest : List Input) (i : Instr), s.inputs = .command cmd :: rest →
    decode s.cfg cmd = .ok i → step s = exec i { s with inputs := rest }) ∧
  (∀ (s : State) (nbits w : Nat) (i : Instr), decode s.cfg (w % 2 ^ nbits) = .ok i →
    step (s.withFetchWord nbits w) = exec i s)

/-- For every state, reachable or not, step answers a next state; for every instruction, exec does. That a trap and a
command refused by R133 are next states is log 14, and that a moment with no event is a step, which answers too, is
log 7: both are the model's reading (DEDUCED). (R29, R130, R133.) -/
def Obligations.EveryStepAnswers : Prop :=
  (∀ s : State, ∃ t, step s = .next t) ∧ (∀ (i : Instr) (s : State), ∃ t, exec i s = .next t)

/-- In every state with FAULT = 1: exec of any instruction, and a step on any command word (reserved codes included),
answers the state whose only change is the response trap = 1, cause = STATUS.CAUSE, ovf = 0, r = s = (0, 0). (R133.) -/
def Obligations.FaultedUnitRefusesEveryCommand : Prop :=
  ∀ s : State, s.fault = true →
    (∀ i : Instr, exec i s = .next s.refusedAs) ∧
    (∀ (cmd : Nat) (rest : List Input), s.inputs = .command cmd :: rest →
      step s = .next (State.refusedAs { s with inputs := rest }))

/-- From every state, faulted or not, whose next event is reset, the step answers the reset state of a unit with the same
configuration (FAULT = 0, CAUSE = 0, no response), with the later events still waiting. That the counter of free
values goes on instead of starting again at 0 is log 4, that the absent response is a field with no value is log 6,
and that the events wait in the state is log 1: the model's choices. (R151, R152, R150, R33.) -/
def Obligations.ResetInputClearsStatus : Prop :=
  ∀ (s : State) (rest : List Input), s.inputs = .reset :: rest →
    step s = .next { State.resetOf s.cfg with inputs := rest, draws := s.draws }

/-- For every configuration c, the state after reset has STATUS.FAULT = 0, STATUS.CAUSE = 0, no response, and
configuration c; State.reset is such a state. (R33.) -/
def Obligations.ResetStateHasNoFaultAndNoResponse : Prop :=
  (∀ c : Config, (State.resetOf c).fault = false ∧ (State.resetOf c).cause = 0 ∧
    (State.resetOf c).response = none ∧ (State.resetOf c).cfg = c) ∧
  ∃ c : Config, State.reset = State.resetOf c

/-- For every state that meets Inv (CAUSE is 0 to 5 and is 0 exactly while FAULT = 0; without a response STATUS is 0; a
response shows STATUS, fits its ports, and is zeroed when trap = 1), whatever the next event is, the state the step
answers meets Inv. (R25, R26, R27, R48, R53, R131, R132, R133, R151, R152.) -/
def Obligations.StepKeepsUnitInvariant : Prop :=
  ∀ s t : State, s.Inv → step s = .next t → t.Inv

/-- State.resetOf c meets Inv for every configuration c, and State.reset meets it. (R33, R25, R152.) -/
def Obligations.ResetMeetsUnitInvariant : Prop :=
  (∀ c : Config, (State.resetOf c).Inv) ∧ State.reset.Inv

/-- From a state with FAULT = 1, any number k of steps whose events include no reset ends with the same STATUS (the cause
of the first trap) and the same configuration, and any response given on the way, the last included, has trap = 1 and
zero results or is the one that stood before. (R26, R27, R133, R134, R137.) -/
def Obligations.FaultHoldsUntilReset : Prop :=
  ∀ (k : Nat) (s t : State), s.fault = true → noReset k s → Host.Core.run Sys2Proof.core k s = .next t →
    t.status = s.status ∧ t.fault = true ∧ t.cfg = s.cfg ∧ t.draws = s.draws ∧
      (t.response = s.response ∨ t.response = some ⟨true, s.cause, false, ⟨0, 0⟩, ⟨0, 0⟩⟩)

/-- If step answers t then the configuration of t is that of s and its waiting events are those of s without the first;
and if no event is waiting in s, the step answers s itself, STATUS, response and all. That a moment with no event is a
step, and that the response ports hold their value through it, are log 7 (DEDUCED) and log 6 (the model's choice).
(R30, R41, R140, R151.) -/
def Obligations.StepTakesOneEventAndKeepsConfiguration : Prop :=
  (∀ s t : State, step s = .next t → t.cfg = s.cfg ∧ t.inputs = s.inputs.tail) ∧
  (∀ s : State, s.inputs = [] → step s = .next s)

/-- If exec i s answers t: the configuration and the waiting events are unchanged; STATUS is unchanged unless FAULT was 0,
i is one of ADD.T, SUB.T, MUL.T, DIVREM.T, DIV.T, REM.T, DIVFULL, WORD, and the answer has FAULT = 1; the counter of
free values is unchanged unless i is DIVREM, DIV or REM. There is no register and no memory to change. The counter is
the model's own field (log 4, its choice), and so is the list of waiting events (log 1). (R20, R24, R30, R34, R39,
R132, R139.) -/
def Obligations.OperationsLeaveAllElseUnchanged : Prop :=
  ∀ (i : Instr) (s t : State), exec i s = .next t →
    t.cfg = s.cfg ∧ t.inputs = s.inputs ∧
    (t.status = s.status ∨ (s.fault = false ∧ canTrap i = true ∧ t.fault = true)) ∧
    (t.draws = s.draws ∨ (s.fault = false ∧ canDraw i = true))

/-- If FAULT = 0 and exec i s answers a state with FAULT = 1, then that state is s with STATUS = (1, code) and the
response trap = 1, cause = code, ovf = 0, r = s = (0, 0), for a code among OVERFLOW 1, NARROW 2, WORDCFG 3, WORDIDX 4.
(R132.) -/
def Obligations.TrapChangesOnlyStatusAndResponse : Prop :=
  ∀ (i : Instr) (s t : State), s.fault = false → exec i s = .next t → t.fault = true →
    ∃ code, 1 ≤ code ∧ code ≤ 4 ∧ t = s.trapped code

/-- For two states of the same configuration and the same STATUS, whatever their earlier responses and waiting events,
exec of the same instruction gives the same STATUS and, if the counters of free values agree too or the instruction is
no reporting division, the same response; for a reporting division the responses agree in trap, cause and ovf, and
wholly when ovf = 0. That equal counters give equal drawn values is log 4, the model's choice of form and no rule: by
R92 the same command may draw differently each time. (R29, R34, R39, R41, R156.) -/
def Obligations.ResponseDependsOnStatusAndCommandAlone : Prop :=
  ∀ (i : Instr) (s s' t t' : State), s.cfg = s'.cfg → s.status = s'.status →
    exec i s = .next t → exec i s' = .next t' →
    t.status = t'.status ∧
    ((s.draws = s'.draws ∨ canDraw i = false) → t.response = t'.response) ∧
    ∃ ρ ρ', t.response = some ρ ∧ t'.response = some ρ' ∧ ρ.trap = ρ'.trap ∧ ρ.cause = ρ'.cause ∧
      ρ.ovf = ρ'.ovf ∧ (ρ.ovf = false → ρ = ρ')

/-- If exec i s answers a response with trap = 0, then s = (0, 0) unless i is MULFULL, DIVREM, DIVREM.T or DIVFULL, and
ovf = 0 unless i is ADD, SUB, MUL, DIVREM, DIV or REM. (R51.) -/
def Obligations.UnlistedResultsAreZero : Prop :=
  ∀ (i : Instr) (s t : State) (ρ : Response), exec i s = .next t → t.response = some ρ → ρ.trap = false →
    (i.writesS = false → ρ.s = ⟨0, 0⟩) ∧ (i.writesOvf = false → ρ.ovf = false)

/-- For each of the 25 operations other than ADD.T, SUB.T, MUL.T, DIVREM.T, DIV.T, REM.T, DIVFULL and WORD, with FAULT = 0
and any operands (a zero divisor included), exec answers a next state with STATUS unchanged and a response with trap =
0. (R139, R130, R24.) -/
def Obligations.NonTrappingOperationsComplete : Prop :=
  ∀ (i : Instr) (s : State), s.fault = false → canTrap i = false →
    ∃ t ρ, exec i s = .next t ∧ t.status = s.status ∧ t.response = some ρ ∧ ρ.trap = false

/-- For every configuration and every response whose results fit: rsp is below 2^(8 + 4W); rsp[0] is trap, rsp[3:1] is
cause, rsp[4] is ovf, rsp[7:5] is 0, and the four limbs stand at 8, 8+W, 8+2W, 8+3W. (R45, R48, R53.) -/
def Obligations.ResponseWordFields : Prop :=
  ∀ (c : Config) (ρ : Response), ρ.r.fits c.W = true → ρ.s.fits c.W = true →
    ρ.word c < 2 ^ (8 + 4 * c.W) ∧
    cmdField (ρ.word c) 0 1 = ρ.trap.toNat ∧ cmdField (ρ.word c) 1 3 = ρ.cause.toNat ∧
    cmdField (ρ.word c) 4 1 = ρ.ovf.toNat ∧ cmdField (ρ.word c) 5 3 = 0 ∧
    cmdField (ρ.word c) 8 c.W = ρ.r.low ∧ cmdField (ρ.word c) (8 + c.W) c.W = ρ.r.high ∧
    cmdField (ρ.word c) (8 + 2 * c.W) c.W = ρ.s.low ∧ cmdField (ρ.word c) (8 + 3 * c.W) c.W = ρ.s.high

/-- For every configuration: pack(val x) = x for every value x; val(pack v) = v for MIN <= v <= MAX; packu(u_D(bits x)) =
x; and u_D(bits(packu n)) = n for 0 <= n < 2^D. The reading is between MIN and MAX. (R13.) -/
def Obligations.PackAndValAreInverse : Prop :=
  ∀ c : Config,
    (∀ x : Value c.W, Value.pack c.W (x.val c.signed) = x ∧ Value.packu c.W x.unsigned = x ∧
      c.MIN ≤ x.val c.signed ∧ x.val c.signed ≤ c.MAX) ∧
    (∀ v : Int, c.MIN ≤ v → v ≤ c.MAX → (Value.pack c.W v).val c.signed = v) ∧
    (∀ n : Nat, n < 2 ^ c.D → (Value.packu c.W n).unsigned = n)

/-- With FAULT = 0, CMPEQ (code 10) and CMPNE (code 11) answer r = (0, 1) or (0, 0) by the comparison of the integers
val(a) and val(b), s = (0, 0), ovf = 0, and nothing else changes. (R61, R62.) -/
def Obligations.EqualityComparesTheIntegers : Prop :=
  ∀ (s : State) (a b : Pair), s.fault = false →
    let x := (s.operand a).val s.cfg.signed
    let y := (s.operand b).val s.cfg.signed
    (Instr.cmpeq a b).opcode = 0x10 ∧ (Instr.cmpne a b).opcode = 0x11 ∧
    exec (.cmpeq a b) s = .next (s.answered (if x = y then ⟨0, 1⟩ else ⟨0, 0⟩) ⟨0, 0⟩ false) ∧
    exec (.cmpne a b) s = .next (s.answered (if x = y then ⟨0, 0⟩ else ⟨0, 1⟩) ⟨0, 0⟩ false)

/-- With FAULT = 0, each of the four answers r = (0, 1) when the relation of the integers val(a), val(b) holds and (0, 0)
when not, in signed and unsigned units, s = (0, 0), ovf = 0, and nothing else changes. (R67, R63, R64, R65, R66.) -/
def Obligations.OrderingComparesTheIntegers : Prop :=
  ∀ (s : State) (a b : Pair), s.fault = false →
    let x := (s.operand a).val s.cfg.signed
    let y := (s.operand b).val s.cfg.signed
    (Instr.cmplt a b).opcode = 0x12 ∧ (Instr.cmple a b).opcode = 0x13 ∧
    (Instr.cmpgt a b).opcode = 0x14 ∧ (Instr.cmpge a b).opcode = 0x15 ∧
    exec (.cmplt a b) s = .next (s.answered (if x < y then ⟨0, 1⟩ else ⟨0, 0⟩) ⟨0, 0⟩ false) ∧
    exec (.cmple a b) s = .next (s.answered (if x ≤ y then ⟨0, 1⟩ else ⟨0, 0⟩) ⟨0, 0⟩ false) ∧
    exec (.cmpgt a b) s = .next (s.answered (if y < x then ⟨0, 1⟩ else ⟨0, 0⟩) ⟨0, 0⟩ false) ∧
    exec (.cmpge a b) s = .next (s.answered (if y ≤ x then ⟨0, 1⟩ else ⟨0, 0⟩) ⟨0, 0⟩ false)

/-- With FAULT = 0, MAG (code 20) answers an r with u_D(bits(r)) = |val(a)| for every a, s = (0, 0), ovf = 0, and nothing
else changes. (R71.) -/
def Obligations.MagnitudeIsTheAbsoluteValue : Prop :=
  ∀ (s : State) (a : Pair), s.fault = false → (Instr.mag a).opcode = 0x20 ∧
    ∃ r : Value s.cfg.W, exec (.mag a) s = .next (s.answered r ⟨0, 0⟩ false) ∧
      (r.unsigned : Int) = |(s.operand a).val s.cfg.signed|

/-- With FAULT = 0, ADD (code 22) answers an r with u_D(bits(r)) = (u_D(bits(a)) + u_D(bits(b))) mod 2^D, at every DEPTH;
at DEPTH = 1 ovf is 1 exactly when the sum of the high limbs is outside the base type, or is Base.max while the low
limbs carry. s = (0, 0), nothing else changes. (R72.) -/
def Obligations.AddFollowsTheLimbRule : Prop :=
  ∀ (s : State) (a b : Pair), s.fault = false →
    let x := s.operand a
    let y := s.operand b
    let sg := s.cfg.signed
    let h := bval sg x.high + bval sg y.high
    (Instr.add a b).opcode = 0x22 ∧
    ∃ (r : Value s.cfg.W) (ovf : Bool), exec (.add a b) s = .next (s.answered r ⟨0, 0⟩ ovf) ∧
      r.unsigned = (x.unsigned + y.unsigned) % 2 ^ s.cfg.D ∧
      (s.cfg.DEPTH = 1 → (ovf = true ↔ (h < minOf sg s.cfg.W ∨ maxOf sg s.cfg.W < h) ∨ (h = maxOf sg s.cfg.W ∧ 2 ^ s.cfg.W ≤ x.low.toNat + y.low.toNat)))

/-- With FAULT = 0, SUB (code 24) answers an r with u_D(bits(r)) = (u_D(bits(a)) - u_D(bits(b))) mod 2^D, at every DEPTH;
at DEPTH = 1 ovf is 1 exactly when the difference of the high limbs is outside the base type, or is Base.min while the
low limbs borrow. s = (0, 0), nothing else changes. (R74.) -/
def Obligations.SubFollowsTheLimbRule : Prop :=
  ∀ (s : State) (a b : Pair), s.fault = false →
    let x := s.operand a
    let y := s.operand b
    let sg := s.cfg.signed
    let h := bval sg x.high - bval sg y.high
    (Instr.sub a b).opcode = 0x24 ∧
    ∃ (r : Value s.cfg.W) (ovf : Bool), exec (.sub a b) s = .next (s.answered r ⟨0, 0⟩ ovf) ∧
      (r.unsigned : Int) = ((x.unsigned : Int) - (y.unsigned : Int)) % 2 ^ s.cfg.D ∧
      (s.cfg.DEPTH = 1 → (ovf = true ↔ (h < minOf sg s.cfg.W ∨ maxOf sg s.cfg.W < h) ∨ (h = minOf sg s.cfg.W ∧ x.low.toNat < y.low.toNat)))

/-- In an unsigned unit of any DEPTH, and in a signed one of DEPTH 1, ADD sets ovf exactly when the exact result is
outside [MIN, MAX] or the operands are the false alarm of R77 (signed only). In a unit of any DEPTH the false alarm is
that of the topmost primitive limb: the exact sum of the two topmost limbs of P bits is -2^(P-1) - 1 and the bits
below carry; that follows from R78 level by level. When the exact result is inside, r holds it. (R77, R78, R72, R8,
R15.) -/
def Obligations.AddFlagAgainstTrueOverflow : Prop :=
  ∀ (s : State) (a b : Pair), s.fault = false →
    let x := s.operand a
    let y := s.operand b
    let sg := s.cfg.signed
    let t := x.val sg + y.val sg
    ∃ (r : Value s.cfg.W) (ovf : Bool), exec (.add a b) s = .next (s.answered r ⟨0, 0⟩ ovf) ∧
      (sg = false ∨ s.cfg.DEPTH = 1 → ovf = (trueOverflow sg s.cfg.D t || addFalseAlarm sg x y)) ∧
      ovf = (trueOverflow sg s.cfg.D t || nestedAddFalseAlarm sg s.cfg.primitiveBits x y) ∧
      (trueOverflow sg s.cfg.D t = false → r.val sg = t)

/-- In an unsigned unit of any DEPTH, and in a signed one of DEPTH 1, SUB sets ovf exactly when the exact result is
outside [MIN, MAX] or the operands are the false alarm of R77 (signed only). In a unit of any DEPTH the false alarm is
that of the topmost primitive limb: the exact difference of the two topmost limbs of P bits is 2^(P-1) and the bits
below borrow; that follows from R78 level by level. When the exact result is inside, r holds it. (R77, R78, R74, R8,
R15.) -/
def Obligations.SubFlagAgainstTrueOverflow : Prop :=
  ∀ (s : State) (a b : Pair), s.fault = false →
    let x := s.operand a
    let y := s.operand b
    let sg := s.cfg.signed
    let t := x.val sg - y.val sg
    ∃ (r : Value s.cfg.W) (ovf : Bool), exec (.sub a b) s = .next (s.answered r ⟨0, 0⟩ ovf) ∧
      (sg = false ∨ s.cfg.DEPTH = 1 → ovf = (trueOverflow sg s.cfg.D t || subFalseAlarm sg x y)) ∧
      ovf = (trueOverflow sg s.cfg.D t || nestedSubFalseAlarm sg s.cfg.primitiveBits x y) ∧
      (trueOverflow sg s.cfg.D t = false → r.val sg = t)

/-- With FAULT = 0, for all operands and every DEPTH: ADD answers r with ovf; if ovf = 0, ADD.T answers the same r with
ovf = 0; if ovf = 1, ADD.T traps OVERFLOW, writing no result. (R73.) -/
def Obligations.TrappingAddFollowsReportingAdd : Prop :=
  ∀ (s : State) (a b : Pair), s.fault = false → (Instr.addT a b).opcode = 0x23 ∧
    ∃ (r : Value s.cfg.W) (ovf : Bool), exec (.add a b) s = .next (s.answered r ⟨0, 0⟩ ovf) ∧
      (ovf = false → exec (.addT a b) s = .next (s.answered r ⟨0, 0⟩ false)) ∧
      (ovf = true → exec (.addT a b) s = .next (s.trapped 1))

/-- With FAULT = 0, for all operands and every DEPTH: SUB answers r with ovf; if ovf = 0, SUB.T answers the same r with
ovf = 0; if ovf = 1, SUB.T traps OVERFLOW, writing no result. (R75.) -/
def Obligations.TrappingSubFollowsReportingSub : Prop :=
  ∀ (s : State) (a b : Pair), s.fault = false → (Instr.subT a b).opcode = 0x25 ∧
    ∃ (r : Value s.cfg.W) (ovf : Bool), exec (.sub a b) s = .next (s.answered r ⟨0, 0⟩ ovf) ∧
      (ovf = false → exec (.subT a b) s = .next (s.answered r ⟨0, 0⟩ false)) ∧
      (ovf = true → exec (.subT a b) s = .next (s.trapped 1))

/-- With FAULT = 0, for all operands and every DEPTH: MUL answers r with ovf; if ovf = 0, MUL.T answers the same r with
ovf = 0; if ovf = 1, MUL.T traps OVERFLOW, writing no result. (R83.) -/
def Obligations.TrappingMulFollowsReportingMul : Prop :=
  ∀ (s : State) (a b : Pair), s.fault = false → (Instr.mulT a b).opcode = 0x33 ∧
    ∃ (r : Value s.cfg.W) (ovf : Bool), exec (.mul a b) s = .next (s.answered r ⟨0, 0⟩ ovf) ∧
      (ovf = false → exec (.mulT a b) s = .next (s.answered r ⟨0, 0⟩ false)) ∧
      (ovf = true → exec (.mulT a b) s = .next (s.trapped 1))

/-- With FAULT = 0, at every DEPTH: if val(a) + val(b) is in [MIN, MAX] and the topmost primitive limbs give no false
alarm (in a signed unit: their exact sum is -2^(P-1) - 1 while the bits below carry; at DEPTH 1 that is R77's), ADD.T
answers pack(val(a) + val(b)); if either fails, it traps OVERFLOW. SUB.T likewise for the difference. s = (0, 0), ovf
= 0, STATUS unchanged when it completes. (R70, R73, R75, R77, R78, R8.) -/
def Obligations.TrappingAddAndSubComplete : Prop :=
  ∀ (s : State) (a b : Pair), s.fault = false →
    let x := s.operand a
    let y := s.operand b
    let sg := s.cfg.signed
    let fa := trueOverflow sg s.cfg.D (x.val sg + y.val sg) || nestedAddFalseAlarm sg s.cfg.primitiveBits x y
    let fs := trueOverflow sg s.cfg.D (x.val sg - y.val sg) || nestedSubFalseAlarm sg s.cfg.primitiveBits x y
    (fa = false → exec (.addT a b) s = .next (s.answered (Value.pack _ (x.val sg + y.val sg)) ⟨0, 0⟩ false)) ∧
    (fa = true → exec (.addT a b) s = .next (s.trapped 1)) ∧
    (fs = false → exec (.subT a b) s = .next (s.answered (Value.pack _ (x.val sg - y.val sg)) ⟨0, 0⟩ false)) ∧
    (fs = true → exec (.subT a b) s = .next (s.trapped 1))

/-- With FAULT = 0: ADD a, b answers some r1, and SUB of r1 and b answers the value on port a, for all operands. (R76.) -/
def Obligations.AddThenSubRestores : Prop :=
  ∀ (s : State) (a b : Pair), s.fault = false →
    ∃ (r : Value s.cfg.W) (o o' : Bool), exec (.add a b) s = .next (s.answered r ⟨0, 0⟩ o) ∧
      exec (.sub r.toPair b) s = .next (s.answered (s.operand a) ⟨0, 0⟩ o')

/-- Signed, W = 16: ADD (0x80FF, 0), (0xFF01, 0) answers r = (0x8000, 0) at both depths, with ovf = 1 at DEPTH 2 and ovf =
0 at DEPTH 1. (R8, R78.) -/
def Obligations.NestedBaseFlagsAnExactSum : Prop :=
  let deep := State.resetOf ⟨0, 1, true, 63⟩
  let flat := State.resetOf ⟨1, 0, true, 63⟩
  deep.cfg.W = 16 ∧ deep.cfg.DEPTH = 2 ∧ flat.cfg.W = 16 ∧ flat.cfg.DEPTH = 1 ∧
  exec (.add ⟨0x80FF, 0⟩ ⟨0xFF01, 0⟩) deep =
    .next { deep with response := some ⟨false, 0, true, ⟨0x8000, 0⟩, ⟨0, 0⟩⟩ } ∧
  exec (.add ⟨0x80FF, 0⟩ ⟨0xFF01, 0⟩) flat =
    .next { flat with response := some ⟨false, 0, false, ⟨0x8000, 0⟩, ⟨0, 0⟩⟩ }

/-- With FAULT = 0, MULFULL (code 30) answers r and s with val(s) * 2^D + u_D(bits(r)) = val(a) * val(b) for all operands,
signed or unsigned; ovf = 0, and nothing else changes. (R81.) -/
def Obligations.MulfullIsTheExactProduct : Prop :=
  ∀ (s : State) (a b : Pair), s.fault = false → (Instr.mulfull a b).opcode = 0x30 ∧
    ∃ r v : Value s.cfg.W, exec (.mulfull a b) s = .next (s.answered r v false) ∧
      v.val s.cfg.signed * 2 ^ s.cfg.D + (r.unsigned : Int) =
        (s.operand a).val s.cfg.signed * (s.operand b).val s.cfg.signed

/-- With FAULT = 0, MUL (code 32) answers r with bits(r) = val(a) * val(b) mod 2^D; ovf is 1 exactly when, the operands'
signs differing in a signed unit, the product is outside [-2^D, -1], and otherwise exactly when it is outside [MIN,
MAX]. s = (0, 0), nothing else changes. (R82, R85, R80.) -/
def Obligations.MulIsTheLowHalfWithItsFlag : Prop :=
  ∀ (s : State) (a b : Pair), s.fault = false → (Instr.mul a b).opcode = 0x32 ∧
    ∃ r : Value s.cfg.W,
      exec (.mul a b) s = .next (s.answered r ⟨0, 0⟩ (mulFlagged s.cfg.signed (s.operand a) (s.operand b))) ∧
      (r.unsigned : Int) = ((s.operand a).val s.cfg.signed * (s.operand b).val s.cfg.signed) % 2 ^ s.cfg.D

/-- With FAULT = 0 and operands whose product R85 does not flag, MUL.T answers r with bits(r) = val(a) * val(b) mod 2^D, s
= (0, 0), ovf = 0; in an unsigned unit, or when neither or both operands are negative, val(r) is the exact product.
(R70, R83, R85, R86.) -/
def Obligations.TrappingMulCompletesWhenUnflagged : Prop :=
  ∀ (s : State) (a b : Pair), s.fault = false → mulFlagged s.cfg.signed (s.operand a) (s.operand b) = false →
    ∃ r : Value s.cfg.W, exec (.mulT a b) s = .next (s.answered r ⟨0, 0⟩ false) ∧
      (r.unsigned : Int) = ((s.operand a).val s.cfg.signed * (s.operand b).val s.cfg.signed) % 2 ^ s.cfg.D ∧
      ((s.operand a).isneg s.cfg.signed = (s.operand b).isneg s.cfg.signed →
        r.val s.cfg.signed = (s.operand a).val s.cfg.signed * (s.operand b).val s.cfg.signed)

/-- For every width n and all x, y below 2^n with y not 0, divmag x y n = (floor(x / y), x mod y). (R91, R116.) -/
def Obligations.DivmagIsEuclideanDivision : Prop :=
  ∀ n x y : Nat, x < 2 ^ n → y < 2 ^ n → y ≠ 0 → divmag x y n = (x / y, x % y)

/-- With FAULT = 0, a divisor not 0, and not MIN by -1 in a signed unit: DIVREM (code 40) answers r = pack(trunc(val(a) /
val(b))), s = pack(val(a) - Q * val(b)), ovf = 0, and nothing else changes. (R91, R92, R90.) -/
def Obligations.DivremIsTruncatedDivision : Prop :=
  ∀ (s : State) (a b : Pair), s.fault = false →
    let x := (s.operand a).val s.cfg.signed
    let y := (s.operand b).val s.cfg.signed
    divOverflow s.cfg.signed s.cfg.D x y = false →
    (Instr.divrem a b).opcode = 0x40 ∧
    exec (.divrem a b) s =
      .next (s.answered (Value.pack _ (x.tdiv y)) (Value.pack _ (x - x.tdiv y * y)) false)

/-- With FAULT = 0 and no overflow, DIVREM answers r and s with val(a) = val(b) * val(r) + val(s), |val(s)| < |val(b)|,
and val(s) = 0 or of the sign of val(a); DIV answers the same r, and REM answers that s on its r. (R99, R92, R94,
R96.) -/
def Obligations.DivisionLaws : Prop :=
  ∀ (s : State) (a b : Pair), s.fault = false →
    let sg := s.cfg.signed
    let x := (s.operand a).val sg
    let y := (s.operand b).val sg
    divOverflow sg s.cfg.D x y = false →
    ∃ r v : Value s.cfg.W, exec (.divrem a b) s = .next (s.answered r v false) ∧
      exec (.div a b) s = .next (s.answered r ⟨0, 0⟩ false) ∧
      exec (.rem a b) s = .next (s.answered v ⟨0, 0⟩ false) ∧
      x = y * r.val sg + v.val sg ∧ |v.val sg| < |y| ∧ (v.val sg = 0 ∨ (v.val sg < 0 ↔ x < 0))

/-- With FAULT = 0 and a zero divisor, or MIN by -1 in a signed unit: DIVREM answers some r and s with ovf = 1; DIV and
REM answer some r with s = (0, 0) and ovf = 1; STATUS does not change. Nothing is said of the free values. (R90, R92,
R94, R96, R139.) -/
def Obligations.ReportingDivisionsOverflowWithFreeResults : Prop :=
  ∀ (s : State) (a b : Pair), s.fault = false →
    divOverflow s.cfg.signed s.cfg.D ((s.operand a).val s.cfg.signed) ((s.operand b).val s.cfg.signed) = true →
    (∃ (r v : Value s.cfg.W) (n : Nat), exec (.divrem a b) s = .next { s.answered r v true with draws := n }) ∧
    (∃ (r : Value s.cfg.W) (n : Nat), exec (.div a b) s = .next { s.answered r ⟨0, 0⟩ true with draws := n }) ∧
    (∃ (r : Value s.cfg.W) (n : Nat), exec (.rem a b) s = .next { s.answered r ⟨0, 0⟩ true with draws := n })

/-- With FAULT = 0 and no overflow: DIV (code 42) answers r = pack(trunc(val(a) / val(b))), REM (code 44) answers r =
pack(val(a) - Q * val(b)), s = (0, 0), ovf = 0, and nothing else changes. (R91, R94, R96.) -/
def Obligations.DivAndRemAreTruncatedDivision : Prop :=
  ∀ (s : State) (a b : Pair), s.fault = false →
    let x := (s.operand a).val s.cfg.signed
    let y := (s.operand b).val s.cfg.signed
    divOverflow s.cfg.signed s.cfg.D x y = false →
    (Instr.div a b).opcode = 0x42 ∧ (Instr.rem a b).opcode = 0x44 ∧
    exec (.div a b) s = .next (s.answered (Value.pack _ (x.tdiv y)) ⟨0, 0⟩ false) ∧
    exec (.rem a b) s = .next (s.answered (Value.pack _ (x - x.tdiv y * y)) ⟨0, 0⟩ false)

/-- With FAULT = 0 and no overflow: DIVREM.T (41) answers r = pack(Q), s = pack(M); DIV.T (43) answers r = pack(Q), s =
(0, 0); REM.T (45) answers r = pack(M), s = (0, 0), where Q = trunc(val(a) / val(b)) and M = val(a) - Q * val(b); ovf
= 0 and nothing else changes. (R91, R93, R95, R97.) -/
def Obligations.TrappingDivisionsComplete : Prop :=
  ∀ (s : State) (a b : Pair), s.fault = false →
    let x := (s.operand a).val s.cfg.signed
    let y := (s.operand b).val s.cfg.signed
    divOverflow s.cfg.signed s.cfg.D x y = false →
    (Instr.divremT a b).opcode = 0x41 ∧ (Instr.divT a b).opcode = 0x43 ∧ (Instr.remT a b).opcode = 0x45 ∧
    exec (.divremT a b) s =
      .next (s.answered (Value.pack _ (x.tdiv y)) (Value.pack _ (x - x.tdiv y * y)) false) ∧
    exec (.divT a b) s = .next (s.answered (Value.pack _ (x.tdiv y)) ⟨0, 0⟩ false) ∧
    exec (.remT a b) s = .next (s.answered (Value.pack _ (x - x.tdiv y * y)) ⟨0, 0⟩ false)

/-- With FAULT = 0 and a zero divisor, or MIN by -1 in a signed unit, each of the three traps with cause OVERFLOW and
writes no result, REM.T on MIN by -1 included. (R90, R93, R95, R97, R131.) -/
def Obligations.TrappingDivisionsTrapOnOverflow : Prop :=
  ∀ (s : State) (a b : Pair), s.fault = false →
    divOverflow s.cfg.signed s.cfg.D ((s.operand a).val s.cfg.signed) ((s.operand b).val s.cfg.signed) = true →
    exec (.divremT a b) s = .next (s.trapped 1) ∧ exec (.divT a b) s = .next (s.trapped 1) ∧
      exec (.remT a b) s = .next (s.trapped 1)

/-- With FAULT = 0, dividend Nv = val(a) * 2^D + u_D(bits(c)), divisor Bv = val(b) not 0, no overflow at quadruple width,
and trunc(Nv / Bv) in [MIN, MAX]: DIVFULL (code 47) answers r = pack(Q), s = pack(Nv - Q * Bv), ovf = 0, and nothing
else changes. (R98, R91.) -/
def Obligations.DivfullCompletesWhenTheQuotientFits : Prop :=
  ∀ (s : State) (a b c : Pair), s.fault = false →
    let nv := (s.operand a).val s.cfg.signed * 2 ^ s.cfg.D + ((s.operand c).unsigned : Int)
    let bv := (s.operand b).val s.cfg.signed
    divOverflow s.cfg.signed (4 * s.cfg.W) nv bv = false → trueOverflow s.cfg.signed s.cfg.D (nv.tdiv bv) = false →
    (Instr.divfull a b c).opcode = 0x47 ∧
    exec (.divfull a b c) s =
      .next (s.answered (Value.pack _ (nv.tdiv bv)) (Value.pack _ (nv - nv.tdiv bv * bv)) false)

/-- With FAULT = 0: an overflow at quadruple width traps OVERFLOW; without one, a quotient outside [MIN, MAX] traps
NARROW; in an unsigned unit with b not 0 that is exactly when u_D(bits(a)) >= u_D(bits(b)). (R98, R131, R135.) -/
def Obligations.DivfullTrapsOverflowThenNarrow : Prop :=
  ∀ (s : State) (a b c : Pair), s.fault = false →
    let nv := (s.operand a).val s.cfg.signed * 2 ^ s.cfg.D + ((s.operand c).unsigned : Int)
    let bv := (s.operand b).val s.cfg.signed
    (divOverflow s.cfg.signed (4 * s.cfg.W) nv bv = true → exec (.divfull a b c) s = .next (s.trapped 1)) ∧
    (divOverflow s.cfg.signed (4 * s.cfg.W) nv bv = false → trueOverflow s.cfg.signed s.cfg.D (nv.tdiv bv) = true →
      exec (.divfull a b c) s = .next (s.trapped 2)) ∧
    (s.cfg.signed = false → (s.operand b).unsigned ≠ 0 →
      (exec (.divfull a b c) s = .next (s.trapped 2) ↔ (s.operand b).unsigned ≤ (s.operand a).unsigned))

/-- With FAULT = 0 and y not 0: MULFULL x, y answers some (r, s), and DIVFULL s, y, r answers quotient x and remainder (0,
0), signed or unsigned. (R98, R81.) -/
def Obligations.DivfullUndoesMulfull : Prop :=
  ∀ (st : State) (x y : Pair), st.fault = false → (st.operand y).val st.cfg.signed ≠ 0 →
    ∃ r v : Value st.cfg.W, exec (.mulfull x y) st = .next (st.answered r v false) ∧
      exec (.divfull v.toPair y r.toPair) st = .next (st.answered (st.operand x) ⟨0, 0⟩ false)

/-- With FAULT = 0, AND (50), OR (51), XOR (52) answer an r whose bit k, for every k below D, is the and, or, exclusive or
of bit k of a and of b; s = (0, 0), ovf = 0, and nothing else changes. (R100, R101, R102, R103.) -/
def Obligations.BitwiseOperatorsActBitByBit : Prop :=
  ∀ (s : State) (a b : Pair), s.fault = false →
    (Instr.and a b).opcode = 0x50 ∧ (Instr.or a b).opcode = 0x51 ∧ (Instr.xor a b).opcode = 0x52 ∧
    ∃ r₁ r₂ r₃ : Value s.cfg.W, exec (.and a b) s = .next (s.answered r₁ ⟨0, 0⟩ false) ∧
      exec (.or a b) s = .next (s.answered r₂ ⟨0, 0⟩ false) ∧
      exec (.xor a b) s = .next (s.answered r₃ ⟨0, 0⟩ false) ∧
      ∀ k, k < s.cfg.D →
        r₁.unsigned.testBit k = ((s.operand a).unsigned.testBit k && (s.operand b).unsigned.testBit k) ∧
        r₂.unsigned.testBit k = ((s.operand a).unsigned.testBit k || (s.operand b).unsigned.testBit k) ∧
        r₃.unsigned.testBit k = ((s.operand a).unsigned.testBit k ^^ (s.operand b).unsigned.testBit k)

/-- With FAULT = 0 and m = val(b) mod D: WSHL (62) answers r with u_D(bits(r)) = u_D(bits(a)) * 2^m mod 2^D; WSHR (63)
answers r with val(r) = floor(val(a) / 2^m), arithmetic in a signed unit; every m from 0 to D - 1, the limb boundary W
included. s = (0, 0), ovf = 0, nothing else changes. (R106, R107.) -/
def Obligations.WrappingShiftsMultiplyAndDivide : Prop :=
  ∀ (s : State) (a b : Pair), s.fault = false →
    let m := ((s.operand b).val s.cfg.signed % (s.cfg.D : Int)).toNat
    (Instr.wshl a b).opcode = 0x62 ∧ (Instr.wshr a b).opcode = 0x63 ∧
    ∃ r v : Value s.cfg.W, exec (.wshl a b) s = .next (s.answered r ⟨0, 0⟩ false) ∧
      exec (.wshr a b) s = .next (s.answered v ⟨0, 0⟩ false) ∧
      r.unsigned = (s.operand a).unsigned * 2 ^ m % 2 ^ s.cfg.D ∧
      v.val s.cfg.signed = (s.operand a).val s.cfg.signed / 2 ^ m

/-- With FAULT = 0 and n = val(b), any integer of the type: for n >= 0 SHL (60) answers a * 2^n mod 2^D and SHR (61)
answers floor(val(a) / 2^n); for n < 0 each does what the other does for -n. s = (0, 0), ovf = 0, nothing else
changes. (R108, R109.) -/
def Obligations.SaturatingShiftsMultiplyAndDivide : Prop :=
  ∀ (s : State) (a b : Pair), s.fault = false →
    let n := (s.operand b).val s.cfg.signed
    (Instr.shl a b).opcode = 0x60 ∧ (Instr.shr a b).opcode = 0x61 ∧
    ∃ r v : Value s.cfg.W, exec (.shl a b) s = .next (s.answered r ⟨0, 0⟩ false) ∧
      exec (.shr a b) s = .next (s.answered v ⟨0, 0⟩ false) ∧
      (0 ≤ n → r.unsigned = (s.operand a).unsigned * 2 ^ n.toNat % 2 ^ s.cfg.D ∧
        v.val s.cfg.signed = (s.operand a).val s.cfg.signed / 2 ^ n.toNat) ∧
      (n < 0 → r.val s.cfg.signed = (s.operand a).val s.cfg.signed / 2 ^ (-n).toNat ∧
        v.unsigned = (s.operand a).unsigned * 2 ^ (-n).toNat % 2 ^ s.cfg.D)

/-- In every state, with m = u_D(bits(b)) mod D: WSHL a, b and SHL a, (0, m) answer the same state, and so do WSHR a, b
and SHR a, (0, m); and when val(b) is in [0, D), the wrapping and the saturating form agree on b itself. (R110.) -/
def Obligations.WrappingShiftIsTheShiftOfTheMaskedAmount : Prop :=
  ∀ (s : State) (a b : Pair),
    let m := (s.operand b).unsigned % s.cfg.D
    exec (.wshl a b) s = exec (.shl a ⟨0, m⟩) s ∧ exec (.wshr a b) s = exec (.shr a ⟨0, m⟩) s ∧
    (0 ≤ (s.operand b).val s.cfg.signed → (s.operand b).val s.cfg.signed < s.cfg.D →
      exec (.wshl a b) s = exec (.shl a b) s ∧ exec (.wshr a b) s = exec (.shr a b) s)

/-- With FAULT = 0 and 0 <= n <= D: if t is the answer of SHL a, pack(n) and v that of SHR t, pack(n), then the low D - n
bits of v are those of a, and the upper n bits are copies of bit D-1-n of a in a signed unit with 0 < n < D, else
zero. (R111, R108, R109.) -/
def Obligations.ShiftLeftThenRight : Prop :=
  ∀ (s : State) (a : Pair) (n : Nat), s.fault = false → n ≤ s.cfg.D →
    let p := (Value.pack s.cfg.W (n : Int)).toPair
    let u := (s.operand a).unsigned
    ∃ t v : Value s.cfg.W, exec (.shl a p) s = .next (s.answered t ⟨0, 0⟩ false) ∧
      exec (.shr t.toPair p) s = .next (s.answered v ⟨0, 0⟩ false) ∧
      (∀ k, k < s.cfg.D - n → v.unsigned.testBit k = u.testBit k) ∧
      (∀ k, s.cfg.D - n ≤ k → k < s.cfg.D →
        v.unsigned.testBit k = (s.cfg.signed && decide (0 < n ∧ n < s.cfg.D) && u.testBit (s.cfg.D - 1 - n)))

/-- With FAULT = 0: LZC (70) answers (0, D - 1 - floor(log2 u)), or (0, D) for zero; TZC (71) answers (0, k) with 2^k but
not 2^(k+1) dividing u, or (0, D) for zero; POPC (72) answers (0, the number of one bits among the D); the count
always fits the low limb. s = (0, 0), ovf = 0, nothing else changes. (R115, R116, R117, R118.) -/
def Obligations.CountersCount : Prop :=
  ∀ (s : State) (a : Pair), s.fault = false →
    let u := (s.operand a).unsigned
    (Instr.lzc a).opcode = 0x70 ∧ (Instr.tzc a).opcode = 0x71 ∧ (Instr.popc a).opcode = 0x72 ∧
    ∃ l t p : BitVec s.cfg.W, exec (.lzc a) s = .next (s.answered ⟨0, l⟩ ⟨0, 0⟩ false) ∧
      exec (.tzc a) s = .next (s.answered ⟨0, t⟩ ⟨0, 0⟩ false) ∧
      exec (.popc a) s = .next (s.answered ⟨0, p⟩ ⟨0, 0⟩ false) ∧
      l.toNat = (if u = 0 then s.cfg.D else s.cfg.D - 1 - Nat.log2 u) ∧
      (u = 0 → t.toNat = s.cfg.D) ∧ (u ≠ 0 → 2 ^ t.toNat ∣ u ∧ ¬ 2 ^ (t.toNat + 1) ∣ u) ∧
      p.toNat = (List.range s.cfg.D).countP (fun k => u.testBit k)

/-- With FAULT = 0, BSWAP (73) answers an r whose byte k is byte D/8 - 1 - k of a for every k below D/8; BSWAP of r
answers a; s = (0, 0), ovf = 0, nothing else changes. (R119.) -/
def Obligations.ByteSwapReversesTheBytes : Prop :=
  ∀ (s : State) (a : Pair), s.fault = false → (Instr.bswap a).opcode = 0x73 ∧
    ∃ r : Value s.cfg.W, exec (.bswap a) s = .next (s.answered r ⟨0, 0⟩ false) ∧
      (∀ k, k < s.cfg.D / 8 → r.byte k = (s.operand a).byte (s.cfg.D / 8 - 1 - k)) ∧
      exec (.bswap r.toPair) s = .next (s.answered (s.operand a) ⟨0, 0⟩ false)

/-- With FAULT = 0 and i = u_D(bits(b)): if N divides W and i < D/N, WORD (74) answers r with u_D(bits(r)) = bits N*i to
N*(i+1)-1 of a; if W divides N, W < N and i = 0, it answers r = a, and the whole N-bit word read with the unit's
signedness is val(a) (the upper bits rest on the spec's G1). s = (0, 0), ovf = 0, nothing else changes. (R120, R37.) -/
def Obligations.WordExtractsTheIndexedWord : Prop :=
  ∀ (s : State) (a b : Pair), s.fault = false →
    let n := s.cfg.N
    let w := s.cfg.W
    let i := (s.operand b).unsigned
    (n ∣ w → i < s.cfg.D / n → ∃ r : Value s.cfg.W, exec (.word a b) s = .next (s.answered r ⟨0, 0⟩ false) ∧
      r.unsigned = (s.operand a).unsigned / 2 ^ (n * i) % 2 ^ n) ∧
    (w ∣ n → w < n → i = 0 → exec (.word a b) s = .next (s.answered (s.operand a) ⟨0, 0⟩ false) ∧
      bval s.cfg.signed (wordAt s.cfg.signed n (s.operand a) 0) = (s.operand a).val s.cfg.signed)

/-- With FAULT = 0: if neither N divides W nor W divides N, WORD traps WORDCFG whatever its operands; otherwise an index i
>= 1 when W < N, or i >= D/N when N <= W, traps WORDIDX. (R121, R122.) -/
def Obligations.WordTrapsInOrder : Prop :=
  ∀ (s : State) (a b : Pair), s.fault = false →
    let n := s.cfg.N
    let w := s.cfg.W
    let i := (s.operand b).unsigned
    (¬ (n ∣ w ∨ w ∣ n) → exec (.word a b) s = .next (s.trapped 3)) ∧
    ((n ∣ w ∨ w ∣ n) → (w < n ∧ 1 ≤ i ∨ n ≤ w ∧ s.cfg.D / n ≤ i) → exec (.word a b) s = .next (s.trapped 4))

/-- For every instruction i, assemble of its mnemonic and its operands, in the order a, b, c, is i. (R50, R56.) -/
def Obligations.AssemblingALineGivesTheInstruction : Prop :=
  ∀ i : Instr, assemble i.mnemonic i.operands = some i

/-- With FAULT = 0 and DEPTH = k + 2, signed or not: let the lower unit be a freshly reset one of DEPTH k + 1, half the
width and the same SIGNED, and give it the high limbs of a and b, each as the pair of its halves. It answers h0 with
its own flag ho. ADD answers the sum modulo 2^D with ovf = 1 exactly when ho = 1, or h0 = BMAX while the low limbs
carry. SUB likewise with the difference, BMIN and the borrow. (R78, R8, R72, R74.) -/
def Obligations.NestedFlagIsTheLowerUnitsFlag : Prop :=
  ∀ (s : State) (a b : Pair) (k : Nat), s.fault = false → s.cfg.nest = k + 1 →
    let x := s.operand a
    let y := s.operand b
    let sg := s.cfg.signed
    let lower := State.resetOf { s.cfg with nest := k }
    let v := lower.cfg.W
    let xh : Pair := ⟨x.high.toNat / 2 ^ v, x.high.toNat % 2 ^ v⟩
    let yh : Pair := ⟨y.high.toNat / 2 ^ v, y.high.toNat % 2 ^ v⟩
    lower.cfg.D = s.cfg.W ∧
    (∃ (r : Value s.cfg.W) (h₀ : Value lower.cfg.W) (ovf ho : Bool),
      exec (.add a b) s = .next (s.answered r ⟨0, 0⟩ ovf) ∧
      exec (.add xh yh) lower = .next (lower.answered h₀ ⟨0, 0⟩ ho) ∧
      r.unsigned = (x.unsigned + y.unsigned) % 2 ^ s.cfg.D ∧
      (ovf = true ↔ ho = true ∨ h₀.val sg = maxOf sg s.cfg.W ∧ 2 ^ s.cfg.W ≤ x.low.toNat + y.low.toNat)) ∧
    (∃ (r : Value s.cfg.W) (h₀ : Value lower.cfg.W) (ovf ho : Bool),
      exec (.sub a b) s = .next (s.answered r ⟨0, 0⟩ ovf) ∧
      exec (.sub xh yh) lower = .next (lower.answered h₀ ⟨0, 0⟩ ho) ∧
      (r.unsigned : Int) = ((x.unsigned : Int) - (y.unsigned : Int)) % 2 ^ s.cfg.D ∧
      (ovf = true ↔ ho = true ∨ h₀.val sg = minOf sg s.cfg.W ∧ x.low.toNat < y.low.toNat))
end

