-- ==== Sys2Proof/Laws/Values.lean ====
section
/-! SUPPORT. How the readings of a value hang together: the unsigned reading is below `2^D`, packing and reading it are
inverse, ports carry values faithfully. -/

namespace Sys2Proof

theorem Value.unsigned_lt {w : Nat} (x : Value w) : x.unsigned < 2 ^ (2 * w) := by
  have hh := x.high.isLt
  have hl := x.low.isLt
  have : 2 ^ (2 * w) = 2 ^ w * 2 ^ w := by rw [two_mul, pow_add]
  rw [Value.unsigned, this]
  calc x.high.toNat * 2 ^ w + x.low.toNat < x.high.toNat * 2 ^ w + 2 ^ w := by omega
    _ = (x.high.toNat + 1) * 2 ^ w := by ring
    _ ≤ 2 ^ w * 2 ^ w := Nat.mul_le_mul_right _ hh

/-- `packu` keeps the low `D` bits. -/
theorem Value.unsigned_packu (w n : Nat) : (Value.packu w n).unsigned = n % 2 ^ (2 * w) := by
  have : 2 ^ (2 * w) = 2 ^ w * 2 ^ w := by rw [two_mul, pow_add]
  simp only [Value.unsigned, Value.packu, BitVec.toNat_ofNat, this, Nat.mod_mul]
  rw [Nat.mul_comm, Nat.add_comm]

/-- A value is the packing of its unsigned reading. -/
theorem Value.packu_unsigned {w : Nat} (x : Value w) : Value.packu w x.unsigned = x := by
  have hl := x.low.isLt
  have hpos : 0 < 2 ^ w := Nat.two_pow_pos w
  obtain ⟨h, l⟩ := x
  simp only [Value.packu, Value.unsigned]
  congr 1
  · apply BitVec.eq_of_toNat_eq
    rw [BitVec.toNat_ofNat, Nat.mul_comm, Nat.mul_add_div hpos, Nat.div_eq_of_lt hl, Nat.add_zero,
      Nat.mod_eq_of_lt h.isLt]
  · apply BitVec.eq_of_toNat_eq
    rw [BitVec.toNat_ofNat, Nat.mul_comm, Nat.mul_add_mod, Nat.mod_eq_of_lt hl]

/-- The unsigned reading determines the value: every `D`-bit pattern is one value (R11). -/
theorem Value.eq_of_unsigned_eq {w : Nat} {x y : Value w} (h : x.unsigned = y.unsigned) : x = y := by
  rw [← x.packu_unsigned, ← y.packu_unsigned, h]

theorem Value.bits_toNat {w : Nat} (x : Value w) : x.bits.toNat = x.unsigned := by
  rw [Value.bits, BitVec.toNat_append, Value.unsigned, ← Nat.shiftLeft_add_eq_or_of_lt x.low.isLt, Nat.shiftLeft_eq]

/-- A value put on a port and read back. -/
@[simp] theorem Value.ofPair_toPair {w : Nat} (x : Value w) : Value.ofPair w x.toPair = x := by
  simp [Value.ofPair, Value.toPair]

@[simp] theorem Value.toPair_fits {w : Nat} (x : Value w) : x.toPair.fits w = true := by
  simp [Value.toPair, Pair.fits, x.high.isLt, x.low.isLt]

/-- A pair that fits is what its port carries. -/
theorem Value.toPair_ofPair {w : Nat} {p : Pair} (h : p.fits w = true) : (Value.ofPair w p).toPair = p := by
  simp only [Pair.fits, Bool.and_eq_true, decide_eq_true_eq] at h
  simp [Value.ofPair, Value.toPair, Nat.mod_eq_of_lt h.1, Nat.mod_eq_of_lt h.2]

/-- A pair that fits has fewer than `D` bits. -/
theorem Pair.bits_lt {w : Nat} {p : Pair} (h : p.fits w = true) : p.bits w < 2 ^ (2 * w) := by
  rw [← Value.toPair_ofPair h]
  exact Value.unsigned_lt _

end Sys2Proof
end

