-- ==== Sys2Proof/Laws/Decode.lean ====
section
/-! SUPPORT. What the fields of an assembled command word are (30_encoding.md R46). -/

namespace Sys2Proof

/-- The code of an assembled word is the code it was assembled from. -/
theorem cmdOp_cmdWord (c : Config) {op : Nat} (h : op < 256) (pa pb pc : Pair) :
    cmdOp (cmdWord c op pa pb pc) = op := by
  simp only [cmdOp, cmdField, cmdWord, Nat.pow_zero, Nat.div_one, Nat.add_mul_mod_self_left]
  exact Nat.mod_eq_of_lt h

/-- Every code is one byte. -/
theorem Instr.opcode_lt (i : Instr) : i.opcode < 256 := by
  cases i <;> simp [Instr.opcode]

/-- An encoded instruction carries its own code. -/
theorem cmdOp_encode (c : Config) (i : Instr) : cmdOp (encode c i) = i.opcode :=
  cmdOp_cmdWord c i.opcode_lt _ _ _

/-- Everything `decode` can answer: the operation of the code, or the reserved code. -/
theorem decodeOp_error {op : Nat} {a b c : Pair} {e : DecodeError} (h : decodeOp op a b c = .error e) :
    e = .reserved op := by
  unfold decodeOp at h
  split at h <;> simp_all

/-- The operation decoded from a code has that code. -/
theorem decodeOp_opcode {op : Nat} {a b c : Pair} {i : Instr} (h : decodeOp op a b c = .ok i) : i.opcode = op := by
  unfold decodeOp at h
  split at h <;> first | (cases h; rfl) | cases h

end Sys2Proof
end

