-- ==== Sys2Proof/Laws/State.lean ====
section
/-! SUPPORT. Each field after each update of the state, so that no proof unfolds a record. -/

namespace Sys2Proof.Machine

@[simp] theorem State.complete_cfg (s : State) (r v : Value s.cfg.W) (o : Bool) (n : Nat) : (s.complete r v o n).cfg = s.cfg := rfl
@[simp] theorem State.complete_status (s : State) (r v : Value s.cfg.W) (o : Bool) (n : Nat) : (s.complete r v o n).status = s.status := rfl
@[simp] theorem State.complete_inputs (s : State) (r v : Value s.cfg.W) (o : Bool) (n : Nat) : (s.complete r v o n).inputs = s.inputs := rfl
@[simp] theorem State.complete_response (s : State) (r v : Value s.cfg.W) (o : Bool) (n : Nat) : (s.complete r v o n).response = some { trap := s.fault, cause := s.cause, ovf := o, r := r.toPair, s := v.toPair } := rfl
@[simp] theorem State.complete_draws (s : State) (r v : Value s.cfg.W) (o : Bool) (n : Nat) : (s.complete r v o n).draws = s.draws + n := rfl

@[simp] theorem State.trapEntry_cfg (s : State) (c : Cause) : (s.trapEntry c).cfg = s.cfg := rfl
@[simp] theorem State.trapEntry_status (s : State) (c : Cause) : (s.trapEntry c).status = statusOf c.code := rfl
@[simp] theorem State.trapEntry_inputs (s : State) (c : Cause) : (s.trapEntry c).inputs = s.inputs := rfl
@[simp] theorem State.trapEntry_response (s : State) (c : Cause) : (s.trapEntry c).response = some { trap := true, cause := c.code, ovf := false, r := Pair.zero, s := Pair.zero } := rfl
@[simp] theorem State.trapEntry_draws (s : State) (c : Cause) : (s.trapEntry c).draws = s.draws := rfl

@[simp] theorem State.refuse_cfg (s : State) : (s.refuse).cfg = s.cfg := rfl
@[simp] theorem State.refuse_status (s : State) : (s.refuse).status = s.status := rfl
@[simp] theorem State.refuse_inputs (s : State) : (s.refuse).inputs = s.inputs := rfl
@[simp] theorem State.refuse_response (s : State) : (s.refuse).response = some { trap := true, cause := s.cause, ovf := false, r := Pair.zero, s := Pair.zero } := rfl
@[simp] theorem State.refuse_draws (s : State) : (s.refuse).draws = s.draws := rfl

@[simp] theorem State.resetUnit_cfg (s : State) : (s.resetUnit).cfg = s.cfg := rfl
@[simp] theorem State.resetUnit_status (s : State) : (s.resetUnit).status = 0 := rfl
@[simp] theorem State.resetUnit_inputs (s : State) : (s.resetUnit).inputs = s.inputs := rfl
@[simp] theorem State.resetUnit_response (s : State) : (s.resetUnit).response = none := rfl
@[simp] theorem State.resetUnit_draws (s : State) : (s.resetUnit).draws = s.draws := rfl

@[simp] theorem State.take_cfg (s : State) (l : List Input) : (s.take l).cfg = s.cfg := rfl
@[simp] theorem State.take_status (s : State) (l : List Input) : (s.take l).status = s.status := rfl
@[simp] theorem State.take_inputs (s : State) (l : List Input) : (s.take l).inputs = l := rfl
@[simp] theorem State.take_response (s : State) (l : List Input) : (s.take l).response = s.response := rfl
@[simp] theorem State.take_draws (s : State) (l : List Input) : (s.take l).draws = s.draws := rfl

@[simp] theorem State.issue_cfg (s : State) (cmd : Nat) : (s.issue cmd).cfg = s.cfg := rfl
@[simp] theorem State.issue_status (s : State) (cmd : Nat) : (s.issue cmd).status = s.status := rfl
@[simp] theorem State.issue_inputs (s : State) (cmd : Nat) : (s.issue cmd).inputs = .command cmd :: s.inputs := rfl
@[simp] theorem State.issue_response (s : State) (cmd : Nat) : (s.issue cmd).response = s.response := rfl
@[simp] theorem State.issue_draws (s : State) (cmd : Nat) : (s.issue cmd).draws = s.draws := rfl

@[simp] theorem State.resetOf_cfg (c : Config) : (State.resetOf c).cfg = c := rfl
@[simp] theorem State.resetOf_status (c : Config) : (State.resetOf c).status = 0 := rfl
@[simp] theorem State.resetOf_inputs (c : Config) : (State.resetOf c).inputs = [] := rfl
@[simp] theorem State.resetOf_response (c : Config) : (State.resetOf c).response = none := rfl
@[simp] theorem State.resetOf_draws (c : Config) : (State.resetOf c).draws = 0 := rfl

/-- `FAULT` and `CAUSE` depend on `STATUS` alone. -/
theorem State.fault_congr {s t : State} (h : s.status = t.status) : s.fault = t.fault := by
  simp [State.fault, h]

theorem State.cause_congr {s t : State} (h : s.status = t.status) : s.cause = t.cause := by
  simp [State.cause, h]

end Sys2Proof.Machine
end

