-- ==== Sys2Proof/Laws/Ops.lean ====
section
/-! SUPPORT. Everything each shared operation over the state can do, said once. -/

namespace Sys2Proof.Machine

/-- After a trap `STATUS` is `FAULT = 1` with the cause's code. -/
theorem statusOf_fault (code : BitVec 3) : (statusOf code).getLsbD 0 = true := by
  revert code; decide

theorem statusOf_cause (code : BitVec 3) : (statusOf code).extractLsb' 1 3 = code := by
  revert code; decide

@[simp] theorem State.trapEntry_fault (s : State) (c : Cause) : (s.trapEntry c).fault = true :=
  statusOf_fault c.code

@[simp] theorem State.trapEntry_cause (s : State) (c : Cause) : (s.trapEntry c).cause = c.code :=
  statusOf_cause c.code

/-- A performed operation: refused while `FAULT = 1`. -/
theorem State.perform_of_fault {s : State} (h : s.fault = true) (e : Effect s.cfg.W) : s.perform e = s.refuse := by
  simp [State.perform, h]

theorem State.perform_done {s : State} (h : s.fault = false) (r v : Value s.cfg.W) (o : Bool) (n : Nat) :
    s.perform (.done r v o n) = s.complete r v o n := by
  simp [State.perform, h]

theorem State.perform_trap {s : State} (h : s.fault = false) (c : Cause) :
    s.perform (.trap c) = s.trapEntry c := by
  simp [State.perform, h]

/-- Everything a performed operation can do. -/
theorem State.perform_cases (s : State) (e : Effect s.cfg.W) :
    (s.fault = true ∧ s.perform e = s.refuse) ∨
    (s.fault = false ∧ ∃ r v o n, e = .done r v o n ∧ s.perform e = s.complete r v o n) ∨
    (s.fault = false ∧ ∃ c, e = .trap c ∧ s.perform e = s.trapEntry c) := by
  cases h : s.fault with
  | true => exact .inl ⟨rfl, State.perform_of_fault h e⟩
  | false =>
    cases e with
    | done r v o n => exact .inr (.inl ⟨rfl, r, v, o, n, rfl, State.perform_done h r v o n⟩)
    | trap c => exact .inr (.inr ⟨rfl, c, rfl, State.perform_trap h c⟩)

/-- No operation touches the build parameters or the host's waiting events. -/
@[simp] theorem State.perform_cfg (s : State) (e : Effect s.cfg.W) : (s.perform e).cfg = s.cfg := by
  obtain ⟨-, h⟩ | ⟨-, r, v, o, n, -, h⟩ | ⟨-, c, -, h⟩ := s.perform_cases e <;> simp [h]

@[simp] theorem State.perform_inputs (s : State) (e : Effect s.cfg.W) : (s.perform e).inputs = s.inputs := by
  obtain ⟨-, h⟩ | ⟨-, r, v, o, n, -, h⟩ | ⟨-, c, -, h⟩ := s.perform_cases e <;> simp [h]

/-- The trapping form of a flagged value traps OVERFLOW. -/
@[simp] theorem trapping_true {w : Nat} (v : Value w) : trapping (v, true) = .trap .overflow := rfl

/-- The trapping form of an unflagged value completes with it. -/
@[simp] theorem trapping_false {w : Nat} (v : Value w) : trapping (v, false) = plain v := rfl

end Sys2Proof.Machine
end

