-- ==== Sys2Proof/Laws/Exec.lean ====
section
/-! SUPPORT. What `exec` and `step` can do, said once: every instruction performs one effect, whose shape its kind bounds. -/

namespace Sys2Proof.Machine

/-- What an operation of a given kind can do: it traps only if it is one that can, never with ILLEGAL; it writes `s`, sets `ovf`
and draws free values only if it is one that does. -/
def Effect.allowed {w : Nat} (i : Instr) : Effect w → Prop
  | .done _ v o n => (i.writesS = false → v = Value.zero w) ∧ (i.writesOvf = false → o = false) ∧
      (canDraw i = false → n = 0) ∧ (o = false → n = 0)
  | .trap c => canTrap i = true ∧ c ≠ .illegal

theorem allowed_plain {w : Nat} (i : Instr) (r : Value w) : Effect.allowed i (plain r) := by
  simp [plain, Effect.allowed]

theorem allowed_plain2 {w : Nat} {i : Instr} (h : i.writesS = true) (r v : Value w) :
    Effect.allowed i (plain2 r v) := by
  simp [plain2, Effect.allowed, h]

theorem allowed_reporting {w : Nat} {i : Instr} (h : i.writesOvf = true) (x : Value w × Bool) :
    Effect.allowed i (reporting x) := by
  simp [reporting, Effect.allowed, h]

theorem allowed_trapping {w : Nat} {i : Instr} (h : canTrap i = true) (x : Value w × Bool) :
    Effect.allowed i (trapping x) := by
  obtain ⟨v, _ | _⟩ := x
  · simpa using allowed_plain i v
  · simp [Effect.allowed, h]

theorem allowed_ite {w : Nat} {i : Instr} {p : Prop} [Decidable p] {e f : Effect w} (he : e.allowed i) (hf : f.allowed i) :
    Effect.allowed i (if p then e else f) := by
  split <;> assumption

theorem allowed_trap {w : Nat} {i : Instr} {c : Cause} (h : canTrap i = true) (hc : c ≠ .illegal) :
    Effect.allowed (w := w) i (.trap c) := ⟨h, hc⟩

theorem allowed_divfull {w : Nat} {i : Instr} (ht : canTrap i = true) (hs : i.writesS = true) (sg : Bool)
    (a b c : Value w) : Effect.allowed i (divfull sg a b c) :=
  allowed_ite (allowed_trap ht (by decide)) (allowed_ite (allowed_trap ht (by decide)) (allowed_plain2 hs _ _))

theorem allowed_wordExtract {w : Nat} {i : Instr} (ht : canTrap i = true) (sg : Bool) (n : Nat) (a b : Value w) :
    Effect.allowed i (wordExtract sg n a b) := by
  unfold wordExtract
  split
  · exact ⟨ht, by decide⟩
  · split
    · exact ⟨ht, by decide⟩
    · exact allowed_plain _ _

/-- Everything `exec` can do: it performs one effect, allowed for the instruction's kind. -/
theorem exec_cases (i : Instr) (s : State) :
    ∃ e : Effect s.cfg.W, exec i s = .next (s.perform e) ∧ e.allowed i := by
  cases i with
  | add a b => exact ⟨_, rfl, allowed_reporting rfl _⟩
  | sub a b => exact ⟨_, rfl, allowed_reporting rfl _⟩
  | mul a b => exact ⟨_, rfl, allowed_reporting rfl _⟩
  | addT a b => exact ⟨_, rfl, allowed_trapping rfl _⟩
  | subT a b => exact ⟨_, rfl, allowed_trapping rfl _⟩
  | mulT a b => exact ⟨_, rfl, allowed_trapping rfl _⟩
  | mulfull a b => exact ⟨_, rfl, allowed_plain2 rfl _ _⟩
  | divrem a b =>
    refine ⟨_, rfl, ?_⟩
    split
    · simp [Effect.allowed, Instr.writesS, Instr.writesOvf, canDraw]
    · exact allowed_plain2 rfl _ _
  | div a b =>
    refine ⟨_, rfl, ?_⟩
    split
    · simp [Effect.allowed, Instr.writesOvf, canDraw]
    · exact allowed_plain _ _
  | rem a b =>
    refine ⟨_, rfl, ?_⟩
    split
    · simp [Effect.allowed, Instr.writesOvf, canDraw]
    · exact allowed_plain _ _
  | divremT a b =>
    refine ⟨_, rfl, ?_⟩
    split
    · exact ⟨rfl, by decide⟩
    · exact allowed_plain2 rfl _ _
  | divT a b =>
    refine ⟨_, rfl, ?_⟩
    split
    · exact ⟨rfl, by decide⟩
    · exact allowed_plain _ _
  | remT a b =>
    refine ⟨_, rfl, ?_⟩
    split
    · exact ⟨rfl, by decide⟩
    · exact allowed_plain _ _
  | divfull a b c => exact ⟨_, rfl, allowed_divfull rfl rfl _ _ _ _⟩
  | word a b => exact ⟨_, rfl, allowed_wordExtract rfl _ _ _ _⟩
  | _ => exact ⟨_, rfl, allowed_plain _ _⟩

/-- Everything a command can do: it performs one effect, which traps ILLEGAL if the code is reserved. -/
theorem performCommand_cases (cmd : Nat) (s : State) :
    (∃ i, decode s.cfg cmd = .ok i ∧ performCommand cmd s = exec i s) ∨
    (decode s.cfg cmd = .error (.reserved (cmdOp cmd)) ∧ performCommand cmd s = .next (s.perform (.trap .illegal))) := by
  unfold performCommand
  cases h : decode s.cfg cmd with
  | ok i => exact .inl ⟨i, rfl, rfl⟩
  | error e =>
    obtain rfl := decodeOp_error h
    exact .inr ⟨rfl, rfl⟩

/-- Everything a step can do. -/
theorem step_cases (s : State) :
    (s.inputs = [] ∧ step s = .next s) ∨
    (∃ rest, s.inputs = .reset :: rest ∧ step s = .next (s.take rest).resetUnit) ∨
    (∃ cmd rest, s.inputs = .command cmd :: rest ∧ step s = performCommand cmd (s.take rest)) := by
  unfold step
  split
  · exact .inl ⟨by assumption, rfl⟩
  · exact .inr (.inl ⟨_, by assumption, rfl⟩)
  · exact .inr (.inr ⟨_, _, by assumption, rfl⟩)

end Sys2Proof.Machine
end

