-- ==== Sys2Proof/Laws/Flags.lean ====
section
/-! SUPPORT. What the limb rules of ADD and SUB compute: their values, at every depth of nesting the sum and the difference
modulo `2^D` (41_magnitude_addsub.md R72, R74, R78), and their flags, one level at a time. -/

namespace Sys2Proof

/-- A value whose high limb is a number reduced modulo `2^w`. -/
theorem Value.unsigned_mk_mod (w h : Nat) (l : BitVec w) :
    (⟨BitVec.ofNat w h, l⟩ : Value w).unsigned = (h * 2 ^ w + l.toNat) % 2 ^ (2 * w) := by
  have hl := l.isLt
  rw [Value.unsigned, BitVec.toNat_ofNat, two_mul, pow_add, Nat.mod_mul, Nat.mul_add_mod', Nat.mod_eq_of_lt hl,
    Nat.mul_comm h, Nat.mul_add_div (Nat.two_pow_pos w), Nat.div_eq_of_lt hl, Nat.add_zero, Nat.mul_comm, Nat.add_comm]

/-- The pattern of a difference of integers is the difference of their patterns. -/
theorem ofInt_sub (w : Nat) (x y : Int) : BitVec.ofInt w (x - y) = BitVec.ofInt w x - BitVec.ofInt w y := by
  apply BitVec.eq_of_toInt_eq
  simp [BitVec.toInt_sub]

/-- The primitive sum, as a pattern (R15). -/
theorem addB_fst (signed : Bool) {w : Nat} (x y : BitVec w) : (addB signed x y).1 = x + y := by
  cases signed <;> simp [addB, narrowB, bval, BitVec.ofInt_add]

/-- The primitive difference, as a pattern (R15). -/
theorem subB_fst (signed : Bool) {w : Nat} (x y : BitVec w) : (subB signed x y).1 = x - y := by
  cases signed <;> simp [subB, narrowB, bval, ofInt_sub]

/-- The limb rule of ADD over a high-limb addition that wraps gives the sum modulo `2^D`. -/
theorem addLimbs_unsigned (signed : Bool) {w : Nat} {f : BitVec w → BitVec w → BitVec w × Bool}
    (hf : ∀ x y, (f x y).1 = x + y) (a b : Value w) :
    (addLimbs signed f a b).1.unsigned = (a.unsigned + b.unsigned) % 2 ^ (2 * w) := by
  have hv : (addLimbs signed f a b).1 =
      ⟨BitVec.ofNat w (a.high.toNat + b.high.toNat + (decide (2 ^ w ≤ a.low.toNat + b.low.toNat)).toNat),
        BitVec.ofNat w (a.low.toNat + b.low.toNat)⟩ := by
    simp only [addLimbs, addU, incB, hf, BitVec.toNat_add]
    congr 1
    apply BitVec.eq_of_toNat_eq
    simp
  have ha := a.low.isLt
  have hb := b.low.isLt
  rw [hv, Value.unsigned_mk_mod, Value.unsigned, Value.unsigned, BitVec.toNat_ofNat]
  congr 1
  by_cases hc : 2 ^ w ≤ a.low.toNat + b.low.toNat
  · rw [Nat.mod_eq_sub_mod hc, Nat.mod_eq_of_lt (by omega)]
    simp only [hc, decide_true, Bool.toNat_true, add_mul, one_mul]
    omega
  · rw [Nat.mod_eq_of_lt (by omega)]
    simp only [hc, decide_false, Bool.toNat_false, add_mul, zero_mul]
    omega

/-- A value whose high limb is an integer reduced modulo `2^w`. -/
theorem Value.unsigned_mk_emod (w : Nat) (h : Int) (l : BitVec w) :
    ((⟨BitVec.ofInt w h, l⟩ : Value w).unsigned : Int) = (h * 2 ^ w + l.toNat) % 2 ^ (2 * w) := by
  have hl : (l.toNat : Int) < 2 ^ w := by exact_mod_cast l.isLt
  have hpos : (0 : Int) < 2 ^ w := by positivity
  have h0 := Int.emod_nonneg h hpos.ne'
  have h1 := Int.emod_lt_of_pos h hpos
  have hsplit : h * 2 ^ w + l.toNat = (h % 2 ^ w * 2 ^ w + l.toNat) + 2 ^ (2 * w) * (h / 2 ^ w) := by
    have := Int.emod_add_mul_ediv h (2 ^ w)
    rw [two_mul, pow_add]
    linear_combination -2 ^ w * this
  have hn : ((BitVec.ofInt w h).toNat : Int) = h % 2 ^ w := by
    rw [BitVec.toNat_ofInt]
    push_cast
    exact Int.toNat_of_nonneg h0
  rw [Value.unsigned, hsplit, Int.add_mul_emod_self_left, Int.emod_eq_of_lt (by positivity) ?_]
  · push_cast
    rw [hn]
  · rw [two_mul, pow_add]
    nlinarith

/-- The limb rule of SUB over a high-limb subtraction that wraps gives the difference modulo `2^D`. -/
theorem subLimbs_unsigned (signed : Bool) {w : Nat} {f : BitVec w → BitVec w → BitVec w × Bool}
    (hf : ∀ x y, (f x y).1 = x - y) (a b : Value w) :
    ((subLimbs signed f a b).1.unsigned : Int) = ((a.unsigned : Int) - b.unsigned) % 2 ^ (2 * w) := by
  have hv : (subLimbs signed f a b).1 =
      ⟨BitVec.ofInt w (a.high.toNat - b.high.toNat - (decide (a.low.toNat < b.low.toNat)).toNat), a.low - b.low⟩ := by
    simp only [subLimbs, subU, decB, hf, ofInt_sub, BitVec.ofInt_natCast, BitVec.ofNat_toNat, BitVec.setWidth_eq,
      sub_lt_zero, Nat.cast_lt]
  have ha := a.low.isLt
  have hb := b.low.isLt
  rw [hv, Value.unsigned_mk_emod, Value.unsigned, Value.unsigned, BitVec.toNat_sub]
  congr 1
  by_cases hc : a.low.toNat < b.low.toNat
  · rw [Nat.mod_eq_of_lt (by omega)]
    simp only [hc, decide_true, Bool.toNat_true]
    push_cast [hb.le]
    ring
  · rw [Nat.mod_eq_sub_mod (by omega), Nat.mod_eq_of_lt (by omega)]
    simp only [hc, decide_false, Bool.toNat_false]
    have : 2 ^ w - b.low.toNat + a.low.toNat - 2 ^ w = a.low.toNat - b.low.toNat := by omega
    rw [this]
    push_cast [not_lt.mp hc]
    ring

/-- Halving a pattern of even width and joining the halves. -/
theorem Value.unsigned_split {w : Nat} (hw : w / 2 * 2 = w) (x : BitVec w) : (Value.split x).unsigned = x.toNat := by
  rw [Value.split, Value.unsigned_packu, Nat.mul_comm 2, hw, Nat.mod_eq_of_lt x.isLt]

/-- The sum of a nested base is the sum of the patterns, at every depth that the width allows (R8). -/
theorem addBase_fst (signed : Bool) (n : Nat) {w : Nat} (hw : 2 ^ n ∣ w) (x y : BitVec w) :
    (addBase signed n w x y).1 = x + y := by
  induction n generalizing w with
  | zero => exact addB_fst signed x y
  | succ n ih =>
    have hw2 : w / 2 * 2 = w := Nat.div_mul_cancel (dvd_trans (dvd_pow_self 2 n.succ_ne_zero) hw)
    have hn : 2 ^ n ∣ w / 2 := by
      rw [pow_succ] at hw
      exact (Nat.dvd_div_iff_mul_dvd (dvd_trans (dvd_mul_left 2 _) hw)).mpr (by rwa [Nat.mul_comm])
    apply BitVec.eq_of_toNat_eq
    simp only [addBase, Value.join, BitVec.toNat_ofNat, BitVec.toNat_add]
    rw [addLimbs_unsigned signed (fun x y => ih hn x y), Value.unsigned_split hw2, Value.unsigned_split hw2,
      Nat.mul_comm 2, hw2, Nat.mod_mod]

/-- The difference of a nested base is the difference of the patterns (R8). -/
theorem subBase_fst (signed : Bool) (n : Nat) {w : Nat} (hw : 2 ^ n ∣ w) (x y : BitVec w) :
    (subBase signed n w x y).1 = x - y := by
  induction n generalizing w with
  | zero => exact subB_fst signed x y
  | succ n ih =>
    have hw2 : w / 2 * 2 = w := Nat.div_mul_cancel (dvd_trans (dvd_pow_self 2 n.succ_ne_zero) hw)
    have hn : 2 ^ n ∣ w / 2 := by
      rw [pow_succ] at hw
      exact (Nat.dvd_div_iff_mul_dvd (dvd_trans (dvd_mul_left 2 _) hw)).mpr (by rwa [Nat.mul_comm])
    have h := subLimbs_unsigned signed (fun x y => ih hn x y) (Value.split x) (Value.split y)
    rw [Value.unsigned_split hw2, Value.unsigned_split hw2, Nat.mul_comm 2, hw2] at h
    apply BitVec.eq_of_toNat_eq
    simp only [subBase, Value.join, BitVec.toNat_ofNat]
    zify
    rw [h, Int.emod_emod_of_dvd _ dvd_rfl, BitVec.toNat_sub]
    push_cast [y.isLt.le]
    rw [show (2 ^ w - (y.toNat : Int) + x.toNat) = (x.toNat - y.toNat) + 2 ^ w by ring, Int.add_emod_right]

/-- The flag of a nested base is the lower level's rule: its own high-limb flag, or the boundary with a carry (R78). -/
theorem addBase_succ_snd (signed : Bool) (n : Nat) {w : Nat} (x y : BitVec w) :
    (addBase signed (n + 1) w x y).2 = (Value.add signed n (Value.split x) (Value.split y)).2 := rfl

theorem subBase_succ_snd (signed : Bool) (n : Nat) {w : Nat} (x y : BitVec w) :
    (subBase signed (n + 1) w x y).2 = (Value.sub signed n (Value.split x) (Value.split y)).2 := rfl

/-- The width of a unit's base is a multiple of `2^(DEPTH - 1)`, as the laws above ask. -/
theorem Config.two_pow_nest_dvd_W (c : Config) : 2 ^ c.nest ∣ c.W := by
  rw [Config.W, pow_add]
  exact dvd_mul_left _ _

end Sys2Proof
end

