-- ==== Sys2Proof/Laws/PerInstr.lean ====
section
/-! SUPPORT. Statements for every instruction, one lemma per constructor. -/

namespace Sys2Proof.Laws

/-- The family EncodeShape: the encoding of an instruction carries its eight-bit code in `cmd[7:0]` (30_encoding.md R46, R50), and
decoding that code with any operand fields gives an instruction of the same code. -/
def EncodeShape.Statement (i : Instr) : Prop :=
  i.opcode < 256 ∧ (∀ c, cmdOp (encode c i) = i.opcode) ∧
    ∀ a b c, ∃ j, decodeOp i.opcode a b c = .ok j ∧ j.opcode = i.opcode

theorem EncodeShape.cmpeq (a b : Pair) : EncodeShape.Statement (.cmpeq a b) :=
  ⟨Instr.opcode_lt _, fun _ => cmdOp_encode _ _, fun _ _ _ => ⟨_, rfl, rfl⟩⟩

theorem EncodeShape.cmpne (a b : Pair) : EncodeShape.Statement (.cmpne a b) :=
  ⟨Instr.opcode_lt _, fun _ => cmdOp_encode _ _, fun _ _ _ => ⟨_, rfl, rfl⟩⟩

theorem EncodeShape.cmplt (a b : Pair) : EncodeShape.Statement (.cmplt a b) :=
  ⟨Instr.opcode_lt _, fun _ => cmdOp_encode _ _, fun _ _ _ => ⟨_, rfl, rfl⟩⟩

theorem EncodeShape.cmple (a b : Pair) : EncodeShape.Statement (.cmple a b) :=
  ⟨Instr.opcode_lt _, fun _ => cmdOp_encode _ _, fun _ _ _ => ⟨_, rfl, rfl⟩⟩

theorem EncodeShape.cmpgt (a b : Pair) : EncodeShape.Statement (.cmpgt a b) :=
  ⟨Instr.opcode_lt _, fun _ => cmdOp_encode _ _, fun _ _ _ => ⟨_, rfl, rfl⟩⟩

theorem EncodeShape.cmpge (a b : Pair) : EncodeShape.Statement (.cmpge a b) :=
  ⟨Instr.opcode_lt _, fun _ => cmdOp_encode _ _, fun _ _ _ => ⟨_, rfl, rfl⟩⟩

theorem EncodeShape.mag (a : Pair) : EncodeShape.Statement (.mag a) :=
  ⟨Instr.opcode_lt _, fun _ => cmdOp_encode _ _, fun _ _ _ => ⟨_, rfl, rfl⟩⟩

theorem EncodeShape.add (a b : Pair) : EncodeShape.Statement (.add a b) :=
  ⟨Instr.opcode_lt _, fun _ => cmdOp_encode _ _, fun _ _ _ => ⟨_, rfl, rfl⟩⟩

theorem EncodeShape.addT (a b : Pair) : EncodeShape.Statement (.addT a b) :=
  ⟨Instr.opcode_lt _, fun _ => cmdOp_encode _ _, fun _ _ _ => ⟨_, rfl, rfl⟩⟩

theorem EncodeShape.sub (a b : Pair) : EncodeShape.Statement (.sub a b) :=
  ⟨Instr.opcode_lt _, fun _ => cmdOp_encode _ _, fun _ _ _ => ⟨_, rfl, rfl⟩⟩

theorem EncodeShape.subT (a b : Pair) : EncodeShape.Statement (.subT a b) :=
  ⟨Instr.opcode_lt _, fun _ => cmdOp_encode _ _, fun _ _ _ => ⟨_, rfl, rfl⟩⟩

theorem EncodeShape.mulfull (a b : Pair) : EncodeShape.Statement (.mulfull a b) :=
  ⟨Instr.opcode_lt _, fun _ => cmdOp_encode _ _, fun _ _ _ => ⟨_, rfl, rfl⟩⟩

theorem EncodeShape.mul (a b : Pair) : EncodeShape.Statement (.mul a b) :=
  ⟨Instr.opcode_lt _, fun _ => cmdOp_encode _ _, fun _ _ _ => ⟨_, rfl, rfl⟩⟩

theorem EncodeShape.mulT (a b : Pair) : EncodeShape.Statement (.mulT a b) :=
  ⟨Instr.opcode_lt _, fun _ => cmdOp_encode _ _, fun _ _ _ => ⟨_, rfl, rfl⟩⟩

theorem EncodeShape.divrem (a b : Pair) : EncodeShape.Statement (.divrem a b) :=
  ⟨Instr.opcode_lt _, fun _ => cmdOp_encode _ _, fun _ _ _ => ⟨_, rfl, rfl⟩⟩

theorem EncodeShape.divremT (a b : Pair) : EncodeShape.Statement (.divremT a b) :=
  ⟨Instr.opcode_lt _, fun _ => cmdOp_encode _ _, fun _ _ _ => ⟨_, rfl, rfl⟩⟩

theorem EncodeShape.div (a b : Pair) : EncodeShape.Statement (.div a b) :=
  ⟨Instr.opcode_lt _, fun _ => cmdOp_encode _ _, fun _ _ _ => ⟨_, rfl, rfl⟩⟩

theorem EncodeShape.divT (a b : Pair) : EncodeShape.Statement (.divT a b) :=
  ⟨Instr.opcode_lt _, fun _ => cmdOp_encode _ _, fun _ _ _ => ⟨_, rfl, rfl⟩⟩

theorem EncodeShape.rem (a b : Pair) : EncodeShape.Statement (.rem a b) :=
  ⟨Instr.opcode_lt _, fun _ => cmdOp_encode _ _, fun _ _ _ => ⟨_, rfl, rfl⟩⟩

theorem EncodeShape.remT (a b : Pair) : EncodeShape.Statement (.remT a b) :=
  ⟨Instr.opcode_lt _, fun _ => cmdOp_encode _ _, fun _ _ _ => ⟨_, rfl, rfl⟩⟩

theorem EncodeShape.divfull (a b c : Pair) : EncodeShape.Statement (.divfull a b c) :=
  ⟨Instr.opcode_lt _, fun _ => cmdOp_encode _ _, fun _ _ _ => ⟨_, rfl, rfl⟩⟩

theorem EncodeShape.and (a b : Pair) : EncodeShape.Statement (.and a b) :=
  ⟨Instr.opcode_lt _, fun _ => cmdOp_encode _ _, fun _ _ _ => ⟨_, rfl, rfl⟩⟩

theorem EncodeShape.or (a b : Pair) : EncodeShape.Statement (.or a b) :=
  ⟨Instr.opcode_lt _, fun _ => cmdOp_encode _ _, fun _ _ _ => ⟨_, rfl, rfl⟩⟩

theorem EncodeShape.xor (a b : Pair) : EncodeShape.Statement (.xor a b) :=
  ⟨Instr.opcode_lt _, fun _ => cmdOp_encode _ _, fun _ _ _ => ⟨_, rfl, rfl⟩⟩

theorem EncodeShape.shl (a b : Pair) : EncodeShape.Statement (.shl a b) :=
  ⟨Instr.opcode_lt _, fun _ => cmdOp_encode _ _, fun _ _ _ => ⟨_, rfl, rfl⟩⟩

theorem EncodeShape.shr (a b : Pair) : EncodeShape.Statement (.shr a b) :=
  ⟨Instr.opcode_lt _, fun _ => cmdOp_encode _ _, fun _ _ _ => ⟨_, rfl, rfl⟩⟩

theorem EncodeShape.wshl (a b : Pair) : EncodeShape.Statement (.wshl a b) :=
  ⟨Instr.opcode_lt _, fun _ => cmdOp_encode _ _, fun _ _ _ => ⟨_, rfl, rfl⟩⟩

theorem EncodeShape.wshr (a b : Pair) : EncodeShape.Statement (.wshr a b) :=
  ⟨Instr.opcode_lt _, fun _ => cmdOp_encode _ _, fun _ _ _ => ⟨_, rfl, rfl⟩⟩

theorem EncodeShape.lzc (a : Pair) : EncodeShape.Statement (.lzc a) :=
  ⟨Instr.opcode_lt _, fun _ => cmdOp_encode _ _, fun _ _ _ => ⟨_, rfl, rfl⟩⟩

theorem EncodeShape.tzc (a : Pair) : EncodeShape.Statement (.tzc a) :=
  ⟨Instr.opcode_lt _, fun _ => cmdOp_encode _ _, fun _ _ _ => ⟨_, rfl, rfl⟩⟩

theorem EncodeShape.popc (a : Pair) : EncodeShape.Statement (.popc a) :=
  ⟨Instr.opcode_lt _, fun _ => cmdOp_encode _ _, fun _ _ _ => ⟨_, rfl, rfl⟩⟩

theorem EncodeShape.bswap (a : Pair) : EncodeShape.Statement (.bswap a) :=
  ⟨Instr.opcode_lt _, fun _ => cmdOp_encode _ _, fun _ _ _ => ⟨_, rfl, rfl⟩⟩

theorem EncodeShape.word (a b : Pair) : EncodeShape.Statement (.word a b) :=
  ⟨Instr.opcode_lt _, fun _ => cmdOp_encode _ _, fun _ _ _ => ⟨_, rfl, rfl⟩⟩

end Sys2Proof.Laws
end

