-- ==== Sys2Proof/Tests/Slice0.lean ====
section
/-! SUPPORT. Tests of the model. Expected values are the spec's: the words are written out from 30_encoding.md R46 and R50, the
responses are those of 95_test_vectors.md. The second part has, for each statement with hypotheses, a state and operands that
meet them. -/

namespace Sys2Proof.Tests

open Sys2Proof Sys2Proof.Machine

/-! ### Well-formedness: an ill-formed term for each operand -/

theorem test_wf_all_fit : (Instr.divfull ⟨255, 255⟩ ⟨255, 255⟩ ⟨255, 255⟩).wellFormed Config.default = true := by decide

theorem test_wf_high_of_a : (Instr.mag ⟨256, 0⟩).wellFormed Config.default = false := by decide

theorem test_wf_low_of_a : (Instr.divfull ⟨0, 256⟩ ⟨0, 0⟩ ⟨0, 0⟩).wellFormed Config.default = false := by decide

theorem test_wf_b : (Instr.add ⟨0, 0⟩ ⟨256, 0⟩).wellFormed Config.default = false := by decide

theorem test_wf_c : (Instr.divfull ⟨0, 0⟩ ⟨0, 0⟩ ⟨0, 256⟩).wellFormed Config.default = false := by decide

/-! ### Decoding: one word per constructor, `c_b_a_op` with a = (1, 2), b = (3, 4), c = (5, 6) at W = 8 (R46, R50) -/

theorem test_decode_cmpeq : decode Config.default 0x0506_0304_0102_10 = .ok (.cmpeq ⟨1, 2⟩ ⟨3, 4⟩) := rfl

theorem test_decode_cmpne : decode Config.default 0x0506_0304_0102_11 = .ok (.cmpne ⟨1, 2⟩ ⟨3, 4⟩) := rfl

theorem test_decode_cmplt : decode Config.default 0x0506_0304_0102_12 = .ok (.cmplt ⟨1, 2⟩ ⟨3, 4⟩) := rfl

theorem test_decode_cmple : decode Config.default 0x0506_0304_0102_13 = .ok (.cmple ⟨1, 2⟩ ⟨3, 4⟩) := rfl

theorem test_decode_cmpgt : decode Config.default 0x0506_0304_0102_14 = .ok (.cmpgt ⟨1, 2⟩ ⟨3, 4⟩) := rfl

theorem test_decode_cmpge : decode Config.default 0x0506_0304_0102_15 = .ok (.cmpge ⟨1, 2⟩ ⟨3, 4⟩) := rfl

theorem test_decode_mag : decode Config.default 0x0506_0304_0102_20 = .ok (.mag ⟨1, 2⟩) := rfl

theorem test_decode_add : decode Config.default 0x0506_0304_0102_22 = .ok (.add ⟨1, 2⟩ ⟨3, 4⟩) := rfl

theorem test_decode_addT : decode Config.default 0x0506_0304_0102_23 = .ok (.addT ⟨1, 2⟩ ⟨3, 4⟩) := rfl

theorem test_decode_sub : decode Config.default 0x0506_0304_0102_24 = .ok (.sub ⟨1, 2⟩ ⟨3, 4⟩) := rfl

theorem test_decode_subT : decode Config.default 0x0506_0304_0102_25 = .ok (.subT ⟨1, 2⟩ ⟨3, 4⟩) := rfl

theorem test_decode_mulfull : decode Config.default 0x0506_0304_0102_30 = .ok (.mulfull ⟨1, 2⟩ ⟨3, 4⟩) := rfl

theorem test_decode_mul : decode Config.default 0x0506_0304_0102_32 = .ok (.mul ⟨1, 2⟩ ⟨3, 4⟩) := rfl

theorem test_decode_mulT : decode Config.default 0x0506_0304_0102_33 = .ok (.mulT ⟨1, 2⟩ ⟨3, 4⟩) := rfl

theorem test_decode_divrem : decode Config.default 0x0506_0304_0102_40 = .ok (.divrem ⟨1, 2⟩ ⟨3, 4⟩) := rfl

theorem test_decode_divremT : decode Config.default 0x0506_0304_0102_41 = .ok (.divremT ⟨1, 2⟩ ⟨3, 4⟩) := rfl

theorem test_decode_div : decode Config.default 0x0506_0304_0102_42 = .ok (.div ⟨1, 2⟩ ⟨3, 4⟩) := rfl

theorem test_decode_divT : decode Config.default 0x0506_0304_0102_43 = .ok (.divT ⟨1, 2⟩ ⟨3, 4⟩) := rfl

theorem test_decode_rem : decode Config.default 0x0506_0304_0102_44 = .ok (.rem ⟨1, 2⟩ ⟨3, 4⟩) := rfl

theorem test_decode_remT : decode Config.default 0x0506_0304_0102_45 = .ok (.remT ⟨1, 2⟩ ⟨3, 4⟩) := rfl

theorem test_decode_divfull : decode Config.default 0x0506_0304_0102_47 = .ok (.divfull ⟨1, 2⟩ ⟨3, 4⟩ ⟨5, 6⟩) := rfl

theorem test_decode_and : decode Config.default 0x0506_0304_0102_50 = .ok (.and ⟨1, 2⟩ ⟨3, 4⟩) := rfl

theorem test_decode_or : decode Config.default 0x0506_0304_0102_51 = .ok (.or ⟨1, 2⟩ ⟨3, 4⟩) := rfl

theorem test_decode_xor : decode Config.default 0x0506_0304_0102_52 = .ok (.xor ⟨1, 2⟩ ⟨3, 4⟩) := rfl

theorem test_decode_shl : decode Config.default 0x0506_0304_0102_60 = .ok (.shl ⟨1, 2⟩ ⟨3, 4⟩) := rfl

theorem test_decode_shr : decode Config.default 0x0506_0304_0102_61 = .ok (.shr ⟨1, 2⟩ ⟨3, 4⟩) := rfl

theorem test_decode_wshl : decode Config.default 0x0506_0304_0102_62 = .ok (.wshl ⟨1, 2⟩ ⟨3, 4⟩) := rfl

theorem test_decode_wshr : decode Config.default 0x0506_0304_0102_63 = .ok (.wshr ⟨1, 2⟩ ⟨3, 4⟩) := rfl

theorem test_decode_lzc : decode Config.default 0x0506_0304_0102_70 = .ok (.lzc ⟨1, 2⟩) := rfl

theorem test_decode_tzc : decode Config.default 0x0506_0304_0102_71 = .ok (.tzc ⟨1, 2⟩) := rfl

theorem test_decode_popc : decode Config.default 0x0506_0304_0102_72 = .ok (.popc ⟨1, 2⟩) := rfl

theorem test_decode_bswap : decode Config.default 0x0506_0304_0102_73 = .ok (.bswap ⟨1, 2⟩) := rfl

theorem test_decode_word : decode Config.default 0x0506_0304_0102_74 = .ok (.word ⟨1, 2⟩ ⟨3, 4⟩) := rfl

theorem test_decode_wider_unit :
    decode ⟨1, 0, false, 7⟩ 0x00000000_00000004_12345678_74 = .ok (.word ⟨0x1234, 0x5678⟩ ⟨0, 4⟩) := rfl

theorem test_decode_reserved : decode Config.default 0x0003_0002_0001_46 = .error (.reserved 0x46) := rfl

theorem test_decode_all_zero : decode Config.default 0 = .error (.reserved 0) := rfl

theorem test_decode_all_ones : decode Config.default 0xFFFF_FFFF_FFFF_FF = .error (.reserved 0xFF) := rfl

theorem test_reserved_count : ((List.range 256).filter reservedCode).length = 223 := by decide +kernel

theorem test_encode_add : encode Config.default (.add ⟨1, 0⟩ ⟨0, 255⟩) = 0x0000_00FF_0100_22 := by decide

theorem test_decode_table_word : decodeTableWord 8 0x47 = some (.divfull ⟨0, 0⟩ ⟨0, 0⟩ ⟨0, 0⟩) := by decide

/-- 30_encoding.md R59's example of a word's text. -/
theorem test_command_text : commandText Config.default 0x0000_00FF_0100_22
    = ['0', 'x', '0', '0', '0', '0', '_', '0', '0', 'F', 'F', '_', '0', '1', '0', '0', '_', '2', '2'] := by decide

/-- 30_encoding.md R57: DOC writes -1 as high = -1, low = 255. -/
theorem test_numeral : pairNumeral Config.default (-1) 255 = some ⟨255, 255⟩ := by decide

/-! ### One step of a fresh unit, its response word compared with the spec's -/

/-- The signed and the unsigned 8-bit unit of the spec's vectors, and the 16-bit unit with 8-bit words. -/
def s8 : Config := ⟨0, 0, true, 63⟩
def u8 : Config := ⟨0, 0, false, 63⟩
def u16n8 : Config := ⟨1, 0, false, 7⟩

/-- The response word of one step on a command, from the given `STATUS`. -/
def answer (c : Config) (status : BitVec 4) (cmd : Nat) : Option Nat :=
  match step { State.resetOf c with status := status, inputs := [.command cmd] } with
  | .next t => t.response.map (Response.word c)
  | _ => none

/-- The flag `ovf` of one step on a command. -/
def flagOf (c : Config) (cmd : Nat) : Option Bool :=
  match step { State.resetOf c with inputs := [.command cmd] } with
  | .next t => t.response.map Response.ovf
  | _ => none

/-- `CMPEQ (1, 0), (1, 0) -> r=(0, 1)` (95_test_vectors.md). -/
theorem test_cmpeq_u8_0 : answer u8 0 0x0000_0100_0100_10 = some 0x0000_0001_00 := by decide

/-- `CMPEQ (1, 0), (0, 1) -> r=(0, 0)` (95_test_vectors.md). -/
theorem test_cmpeq_s8_1 : answer s8 0 0x0000_0001_0100_10 = some 0x0000_0000_00 := by decide

/-- `CMPNE (1, 0), (0, 1) -> r=(0, 1)` (95_test_vectors.md). -/
theorem test_cmpne_u8_0 : answer u8 0 0x0000_0001_0100_11 = some 0x0000_0001_00 := by decide

/-- `CMPNE (1, 0), (0, 1) -> r=(0, 1)` (95_test_vectors.md). -/
theorem test_cmpne_s8_1 : answer s8 0 0x0000_0001_0100_11 = some 0x0000_0001_00 := by decide

/-- `CMPLT (-1, 0xFF), (0, 0) -> r=(0, 1)` (95_test_vectors.md). -/
theorem test_cmplt_s8_0 : answer s8 0 0x0000_0000_FFFF_12 = some 0x0000_0001_00 := by decide

/-- `CMPLT (1, 0), (0, 0xFF) -> r=(0, 0)` (95_test_vectors.md). -/
theorem test_cmplt_u8_1 : answer u8 0 0x0000_00FF_0100_12 = some 0x0000_0000_00 := by decide

/-- `CMPLE (0x12, 0x34), (0x12, 0x34) -> r=(0, 1)` (95_test_vectors.md). -/
theorem test_cmple_u8_0 : answer u8 0 0x0000_1234_1234_13 = some 0x0000_0001_00 := by decide

/-- `CMPLE (0x12, 0x34), (0x12, 0x34) -> r=(0, 1)` (95_test_vectors.md). -/
theorem test_cmple_s8_1 : answer s8 0 0x0000_1234_1234_13 = some 0x0000_0001_00 := by decide

/-- `CMPGT (0, 0), (-128, 0) -> r=(0, 1)` (95_test_vectors.md). -/
theorem test_cmpgt_s8_0 : answer s8 0 0x0000_8000_0000_14 = some 0x0000_0001_00 := by decide

/-- `CMPGT (1, 0), (0, 0xFF) -> r=(0, 1)` (95_test_vectors.md). -/
theorem test_cmpgt_u8_1 : answer u8 0 0x0000_00FF_0100_14 = some 0x0000_0001_00 := by decide

/-- `CMPGE (0, 0xFF), (1, 0) -> r=(0, 0)` (95_test_vectors.md). -/
theorem test_cmpge_u8_0 : answer u8 0 0x0000_0100_00FF_15 = some 0x0000_0000_00 := by decide

/-- `CMPGE (0, 0xFF), (1, 0) -> r=(0, 0)` (95_test_vectors.md). -/
theorem test_cmpge_s8_1 : answer s8 0 0x0000_0100_00FF_15 = some 0x0000_0000_00 := by decide

/-- `MAG (-128, 0) -> r=(0x80, 0)` (95_test_vectors.md). -/
theorem test_mag_s8_0 : answer s8 0 0x0000_0000_8000_20 = some 0x0000_8000_00 := by decide

/-- `MAG (0xFF, 0xFF) -> r=(0xFF, 0xFF)` (95_test_vectors.md). -/
theorem test_mag_u8_1 : answer u8 0 0x0000_0000_FFFF_20 = some 0x0000_FFFF_00 := by decide

/-- `ADD (-128, 0xFF), (-1, 1) -> r=(-128, 0), ovf=1` (95_test_vectors.md). -/
theorem test_add_s8_0 : answer s8 0 0x0000_FF01_80FF_22 = some 0x0000_8000_10 := by decide

/-- `ADD (1, 0), (0, 0xFF) -> r=(1, 0xFF), ovf=0` (95_test_vectors.md). -/
theorem test_add_u8_1 : answer u8 0 0x0000_00FF_0100_22 = some 0x0000_01FF_00 := by decide

/-- `ADD.T (-128, 0xFF), (-1, 1) -> trap OVERFLOW` (95_test_vectors.md). -/
theorem test_addT_s8_0 : answer s8 0 0x0000_FF01_80FF_23 = some 0x0000_0000_03 := by decide

/-- `ADD.T (1, 0), (0, 0xFF) -> r=(1, 0xFF)` (95_test_vectors.md). -/
theorem test_addT_u8_1 : answer u8 0 0x0000_00FF_0100_23 = some 0x0000_01FF_00 := by decide

/-- `SUB (0x7F, 0), (-1, 1) -> r=(0x7F, 0xFF), ovf=1` (95_test_vectors.md). -/
theorem test_sub_s8_0 : answer s8 0 0x0000_FF01_7F00_24 = some 0x0000_7FFF_10 := by decide

/-- `SUB (1, 0xFF), (0, 0xFF) -> r=(1, 0), ovf=0` (95_test_vectors.md). -/
theorem test_sub_u8_1 : answer u8 0 0x0000_00FF_01FF_24 = some 0x0000_0100_00 := by decide

/-- `SUB.T (0, 0), (0, 1) -> trap OVERFLOW` (95_test_vectors.md). -/
theorem test_subT_u8_0 : answer u8 0 0x0000_0001_0000_25 = some 0x0000_0000_03 := by decide

/-- `SUB.T (0, 5), (0, 7) -> r=(-1, 0xFE)` (95_test_vectors.md). -/
theorem test_subT_s8_1 : answer s8 0 0x0000_0007_0005_25 = some 0x0000_FFFE_00 := by decide

/-- `MULFULL (1, 0), (1, 0) -> r=(0, 0), s=(0, 1)` (95_test_vectors.md). -/
theorem test_mulfull_u8_0 : answer u8 0 0x0000_0100_0100_30 = some 0x0001_0000_00 := by decide

/-- `MULFULL (-1, 0xFF), (0, 1) -> r=(0xFF, 0xFF), s=(-1, 0xFF)` (95_test_vectors.md). -/
theorem test_mulfull_s8_1 : answer s8 0 0x0000_0001_FFFF_30 = some 0xFFFF_FFFF_00 := by decide

/-- `MUL (-1, 0xFF), (0, 0) -> r=(0, 0), ovf=1` (95_test_vectors.md). -/
theorem test_mul_s8_0 : answer s8 0 0x0000_0000_FFFF_32 = some 0x0000_0000_10 := by decide

/-- `MUL (0, 0xC8), (0, 0xC8) -> r=(0x9C, 0x40), ovf=0` (95_test_vectors.md). -/
theorem test_mul_u8_1 : answer u8 0 0x0000_00C8_00C8_32 = some 0x0000_9C40_00 := by decide

/-- `MUL.T (-1, 0xFF), (0, 0) -> trap OVERFLOW` (95_test_vectors.md). -/
theorem test_mulT_s8_0 : answer s8 0 0x0000_0000_FFFF_33 = some 0x0000_0000_03 := by decide

/-- `MUL.T (0, 0x10), (0, 0x10) -> r=(1, 0)` (95_test_vectors.md). -/
theorem test_mulT_u8_1 : answer u8 0 0x0000_0010_0010_33 = some 0x0000_0100_00 := by decide

/-- `DIVREM (-1, 0xFF), (0, 1) -> r=(-1, 0xFF), s=(0, 0), ovf=0` (95_test_vectors.md). -/
theorem test_divrem_s8_0 : answer s8 0 0x0000_0001_FFFF_40 = some 0x0000_FFFF_00 := by decide

/-- `DIVREM (1, 0xFF), (0, 0x0A) -> r=(0, 0x33), s=(0, 1), ovf=0` (95_test_vectors.md). -/
theorem test_divrem_u8_1 : answer u8 0 0x0000_000A_01FF_40 = some 0x0001_0033_00 := by decide

/-- `DIVREM.T (0, 5), (0, 0) -> trap OVERFLOW` (95_test_vectors.md). -/
theorem test_divremT_u8_0 : answer u8 0 0x0000_0000_0005_41 = some 0x0000_0000_03 := by decide

/-- `DIVREM.T (-128, 0), (-1, 0xFF) -> trap OVERFLOW` (95_test_vectors.md). -/
theorem test_divremT_s8_1 : answer s8 0 0x0000_FFFF_8000_41 = some 0x0000_0000_03 := by decide

/-- `DIV (0, 0x64), (-1, 0xF9) -> r=(-1, 0xF2), ovf=0` (95_test_vectors.md). -/
theorem test_div_s8_0 : answer s8 0 0x0000_FFF9_0064_42 = some 0x0000_FFF2_00 := by decide

/-- `DIV.T (-1, 0xFF), (0, 1) -> r=(-1, 0xFF)` (95_test_vectors.md). -/
theorem test_divT_s8_0 : answer s8 0 0x0000_0001_FFFF_43 = some 0x0000_FFFF_00 := by decide

/-- `DIV.T (0xFF, 0xFF), (0, 2) -> r=(0x7F, 0xFF)` (95_test_vectors.md). -/
theorem test_divT_u8_1 : answer u8 0 0x0000_0002_FFFF_43 = some 0x0000_7FFF_00 := by decide

/-- `REM (-1, 0xF9), (0, 2) -> r=(-1, 0xFF), ovf=0` (95_test_vectors.md). -/
theorem test_rem_s8_0 : answer s8 0 0x0000_0002_FFF9_44 = some 0x0000_FFFF_00 := by decide

/-- `REM.T (-1, 0xFF), (0, 1) -> r=(0, 0)` (95_test_vectors.md). -/
theorem test_remT_s8_0 : answer s8 0 0x0000_0001_FFFF_45 = some 0x0000_0000_00 := by decide

/-- `REM.T (1, 0xFF), (0, 0x0A) -> r=(0, 1)` (95_test_vectors.md). -/
theorem test_remT_u8_1 : answer u8 0 0x0000_000A_01FF_45 = some 0x0000_0001_00 := by decide

/-- `DIVFULL (6, 0x26), (0x56, 0x78), (0, 0x60) -> r=(0x12, 0x34), s=(0, 0)` (95_test_vectors.md). -/
theorem test_divfull_u8_0 : answer u8 0 0x0060_5678_0626_47 = some 0x0000_1234_00 := by decide

/-- `DIVFULL (-1, 0xFF), (0, 0xC8), (0x63, 0xC0) -> r=(-1, 0x38), s=(0, 0)` (95_test_vectors.md). -/
theorem test_divfull_s8_1 : answer s8 0 0x63C0_00C8_FFFF_47 = some 0x0000_FF38_00 := by decide

/-- `AND (0xF0, 0x3C), (0xAA, 0x0F) -> r=(0xA0, 0x0C)` (95_test_vectors.md). -/
theorem test_and_u8_0 : answer u8 0 0x0000_AA0F_F03C_50 = some 0x0000_A00C_00 := by decide

/-- `AND (0x12, 0x34), (0x00, 0x00) -> r=(0x00, 0x00)` (95_test_vectors.md). -/
theorem test_and_s8_1 : answer s8 0 0x0000_0000_1234_50 = some 0x0000_0000_00 := by decide

/-- `OR (0xF0, 0x3C), (0xAA, 0x0F) -> r=(0xFA, 0x3F)` (95_test_vectors.md). -/
theorem test_or_u8_0 : answer u8 0 0x0000_AA0F_F03C_51 = some 0x0000_FA3F_00 := by decide

/-- `OR (0x12, 0x34), (0xFF, 0xFF) -> r=(0xFF, 0xFF)` (95_test_vectors.md). -/
theorem test_or_s8_1 : answer s8 0 0x0000_FFFF_1234_51 = some 0x0000_FFFF_00 := by decide

/-- `XOR (0x12, 0x34), (0xFF, 0xFF) -> r=(0xED, 0xCB)` (95_test_vectors.md). -/
theorem test_xor_u8_0 : answer u8 0 0x0000_FFFF_1234_52 = some 0x0000_EDCB_00 := by decide

/-- `XOR (0x12, 0x34), (0xFF, 0xFF) -> r=(0xED, 0xCB)` (95_test_vectors.md). -/
theorem test_xor_s8_1 : answer s8 0 0x0000_FFFF_1234_52 = some 0x0000_EDCB_00 := by decide

/-- `SHL (0x82, 0x34), (-1, 0xFC) -> r=(0xF8, 0x23)` (95_test_vectors.md). -/
theorem test_shl_s8_0 : answer s8 0 0x0000_FFFC_8234_60 = some 0x0000_F823_00 := by decide

/-- `SHL (0x82, 0x34), (0, 0) -> r=(0x82, 0x34)` (95_test_vectors.md). -/
theorem test_shl_u8_1 : answer u8 0 0x0000_0000_8234_60 = some 0x0000_8234_00 := by decide

/-- `SHR (0x12, 0x34), (0, 0x10) -> r=(0x00, 0x00)` (95_test_vectors.md). -/
theorem test_shr_s8_0 : answer s8 0 0x0000_0010_1234_61 = some 0x0000_0000_00 := by decide

/-- `SHR (0x82, 0x34), (0, 4) -> r=(0x08, 0x23)` (95_test_vectors.md). -/
theorem test_shr_u8_1 : answer u8 0 0x0000_0004_8234_61 = some 0x0000_0823_00 := by decide

/-- `WSHL (0x12, 0x34), (0xAB, 4) -> r=(0x23, 0x40)` (95_test_vectors.md). -/
theorem test_wshl_u8_0 : answer u8 0 0x0000_AB04_1234_62 = some 0x0000_2340_00 := by decide

/-- `WSHL (0x12, 0x34), (-1, 0xFF) -> r=(0x00, 0x00)` (95_test_vectors.md). -/
theorem test_wshl_s8_1 : answer s8 0 0x0000_FFFF_1234_62 = some 0x0000_0000_00 := by decide

/-- `WSHR (0x82, 0x34), (0, 8) -> r=(0xFF, 0x82)` (95_test_vectors.md). -/
theorem test_wshr_s8_0 : answer s8 0 0x0000_0008_8234_63 = some 0x0000_FF82_00 := by decide

/-- `WSHR (0x82, 0x34), (0, 4) -> r=(0x08, 0x23)` (95_test_vectors.md). -/
theorem test_wshr_u8_1 : answer u8 0 0x0000_0004_8234_63 = some 0x0000_0823_00 := by decide

/-- `LZC (0x80, 0x00) -> r=(0, 0)` (95_test_vectors.md). -/
theorem test_lzc_s8_0 : answer s8 0 0x0000_0000_8000_70 = some 0x0000_0000_00 := by decide

/-- `LZC (0x00, 0x1F) -> r=(0, 0x0B)` (95_test_vectors.md). -/
theorem test_lzc_u8_1 : answer u8 0 0x0000_0000_001F_70 = some 0x0000_000B_00 := by decide

/-- `TZC (0x80, 0x00) -> r=(0, 0x0F)` (95_test_vectors.md). -/
theorem test_tzc_s8_0 : answer s8 0 0x0000_0000_8000_71 = some 0x0000_000F_00 := by decide

/-- `TZC (0x10, 0x00) -> r=(0, 0x0C)` (95_test_vectors.md). -/
theorem test_tzc_u8_1 : answer u8 0 0x0000_0000_1000_71 = some 0x0000_000C_00 := by decide

/-- `POPC (0xF0, 0x03) -> r=(0, 6)` (95_test_vectors.md). -/
theorem test_popc_u8_0 : answer u8 0 0x0000_0000_F003_72 = some 0x0000_0006_00 := by decide

/-- `POPC (0x80, 0x00) -> r=(0, 1)` (95_test_vectors.md). -/
theorem test_popc_s8_1 : answer s8 0 0x0000_0000_8000_72 = some 0x0000_0001_00 := by decide

/-- `BSWAP (0xAB, 0xAB) -> r=(0xAB, 0xAB)` (95_test_vectors.md). -/
theorem test_bswap_u8_0 : answer u8 0 0x0000_0000_ABAB_73 = some 0x0000_ABAB_00 := by decide

/-- `BSWAP (0x00, 0x80) -> r=(0x80, 0x00)` (95_test_vectors.md). -/
theorem test_bswap_s8_1 : answer s8 0 0x0000_0000_0080_73 = some 0x0000_8000_00 := by decide

/-- `WORD (0x1234, 0x5678), (0, 4) -> trap WORDIDX` (95_test_vectors.md). -/
theorem test_word_u16_0 : answer u16n8 0 0x41234567874 = some 0x9 := by decide

/-- `WORD (0x80, 0xFF), (0, 0) -> r=(0x80, 0xFF)` (95_test_vectors.md). -/
theorem test_word_s8_1 : answer s8 0 0x0000_0000_80FF_74 = some 0x0000_80FF_00 := by decide

/-- Zero divisor, and MIN / -1: the flag; the results are free (43_divide.md R92). -/
theorem test_divrem_overflow_flag :
    flagOf u8 0x0000_0000_1234_40 = some true ∧ flagOf s8 0x0000_FFFF_8000_42 = some true ∧
      flagOf s8 0x0000_FFFF_8000_44 = some true := by decide

/-- 95_test_vectors.md 2.8: refused, FAULT already set by an earlier OVERFLOW. -/
theorem test_refused : answer u8 3 0x0000_0002_0001_22 = some 0x0000_0000_03 := by decide

/-- 95_test_vectors.md 2.8: a reserved code raises nothing once faulted. -/
theorem test_refused_reserved : answer u8 7 0 = some 0x0000_0000_07 := by decide

/-- 95_test_vectors.md 2.8: a reserved code traps ILLEGAL. -/
theorem test_illegal : answer u8 0 0x0000_0002_0001_21 = some 0x0000_0000_0B := by decide

/-- 46_introspection.md R121: N = 12 and W = 8 do not divide one another. -/
theorem test_wordcfg : answer ⟨0, 0, false, 11⟩ 0 0x0000_0009_1234_74 = some 0x0000_0000_07 := by decide

/-- 95_test_vectors.md program 3: reset after a trap. -/
theorem test_reset_after_trap :
    step { State.reset.trapEntry .overflow with inputs := [.reset] } = .next State.reset := rfl

/-- 41_magnitude_addsub.md R78. -/
theorem test_nested_flag :
    (Value.add true 1 (⟨0x80FF, 0⟩ : Value 16) ⟨0xFF01, 0⟩).2 = true ∧
      (Value.add true 0 (⟨0x80FF, 0⟩ : Value 16) ⟨0xFF01, 0⟩).2 = false := by decide

/-- withFetchWord: the table's word of CMPEQ is what the first step after reset performs. -/
theorem test_fetch_word :
    step (State.reset.withFetchWord 8 0x10) = exec (.cmpeq ⟨0, 0⟩ ⟨0, 0⟩) State.reset := rfl

/-! ### Witnesses: the hypotheses of each statement are met together -/

theorem witness_DecodeOfEncodeIsIdentity :
    (Instr.divfull ⟨255, 255⟩ ⟨0, 1⟩ ⟨255, 0⟩).wellFormed Config.default = true := by decide

theorem witness_EncodeOfDecodeIsIdentityOnCanonicalWords :
    let cmd := 0x0000_00FF_0100_22
    decode Config.default cmd = .ok (.add ⟨1, 0⟩ ⟨0, 0xFF⟩) ∧ cmd < 2 ^ (8 + 6 * Config.default.W) ∧
      (readsOnlyA (cmd % 256) = true → cmdB Config.default cmd = ⟨0, 0⟩) ∧
      (cmd % 256 ≠ 0x47 → cmdC Config.default cmd = ⟨0, 0⟩) :=
  ⟨rfl, by decide, by decide, by decide⟩

theorem witness_EncodeOfDecodeIsIdentityOnCanonicalWords_one_operand :
    let cmd := 0x0000_0000_1234_73
    decode Config.default cmd = .ok (.bswap ⟨0x12, 0x34⟩) ∧ cmd < 2 ^ (8 + 6 * Config.default.W) ∧
      (readsOnlyA (cmd % 256) = true → cmdB Config.default cmd = ⟨0, 0⟩) ∧
      (cmd % 256 ≠ 0x47 → cmdC Config.default cmd = ⟨0, 0⟩) :=
  ⟨rfl, by decide, by decide, by decide⟩

theorem witness_DecodedOperandsAreTheReadFields :
    decode Config.default 0x0060_5678_0626_47 = .ok (.divfull ⟨0x06, 0x26⟩ ⟨0x56, 0x78⟩ ⟨0, 0x60⟩) := rfl

theorem witness_UnreadFieldsAreIgnored :
    let x := 0xBEEF_DEAD_1234_20
    let y := 0x0000_0000_1234_20
    x % 256 = y % 256 ∧ cmdA Config.default x = cmdA Config.default y ∧
      (readsOnlyA (x % 256) = true ∨ cmdB Config.default x = cmdB Config.default y) ∧
      (x % 256 = 0x47 → cmdC Config.default x = cmdC Config.default y) := by decide

theorem witness_UnreadFieldsAreIgnored_two_operands :
    let x := 0xBEEF_0002_0001_22
    let y := 0x0000_0002_0001_22
    x % 256 = y % 256 ∧ cmdA Config.default x = cmdA Config.default y ∧
      (readsOnlyA (x % 256) = true ∨ cmdB Config.default x = cmdB Config.default y) ∧
      (x % 256 = 0x47 → cmdC Config.default x = cmdC Config.default y) := by decide

theorem witness_UnreadFieldsAreIgnored_step :
    let s := State.reset.trapEntry .narrow
    let x := 0xBEEF_0002_0001_22
    let y := 0x0000_0002_0001_22
    x % 256 = y % 256 ∧ cmdA s.cfg x = cmdA s.cfg y ∧ (readsOnlyA (x % 256) = true ∨ cmdB s.cfg x = cmdB s.cfg y) ∧
      (x % 256 = 0x47 → cmdC s.cfg x = cmdC s.cfg y) := by decide

theorem witness_UnreadFieldsAreIgnored_amount :
    (State.reset.operand ⟨0xAB, 4⟩).unsigned % State.reset.cfg.D
      = (State.reset.operand ⟨0, 4⟩).unsigned % State.reset.cfg.D := by decide

theorem witness_DecodeRefusesExactlyReservedCodes :
    reservedCode (0x46 % 256) = true ∧ reservedCode (0x47 % 256) = false := by decide

theorem witness_ReservedCodesTrapIllegal :
    let s := State.reset.issue 0
    s.fault = false ∧ s.inputs = .command 0 :: [] ∧ reservedCode (0 % 256) = true := by decide

theorem witness_ReservedCodesTrapIllegal_top :
    let s := State.reset.issue 0xFF
    s.fault = false ∧ s.inputs = .command 0xFF :: [] ∧ reservedCode (0xFF % 256) = true := by decide

theorem witness_CommandStepRunsTheDecodedInstruction :
    let s := State.reset.issue 0x0000_00FF_0100_22
    s.inputs = .command 0x0000_00FF_0100_22 :: [] ∧
      decode s.cfg 0x0000_00FF_0100_22 = .ok (.add ⟨1, 0⟩ ⟨0, 0xFF⟩) := ⟨rfl, rfl⟩

theorem witness_CommandStepRunsTheDecodedInstruction_fetch :
    decode State.reset.cfg (0x10 % 2 ^ 8) = .ok (.cmpeq ⟨0, 0⟩ ⟨0, 0⟩) := rfl

theorem witness_FaultedUnitRefusesEveryCommand :
    let s := (State.reset.trapEntry .wordcfg).issue 0
    s.fault = true ∧ s.inputs = .command 0 :: [] := by decide

theorem witness_ResetInputClearsStatus :
    (({ State.reset.trapEntry .narrow with inputs := [.reset] } : State)).inputs = .reset :: [] := rfl

theorem witness_StepKeepsUnitInvariant : State.reset.Inv ∧ ∃ t, step State.reset = .next t := by
  refine ⟨⟨by decide, fun _ => rfl, fun ρ h => ?_⟩, _, rfl⟩
  cases h

theorem witness_FaultHoldsUntilReset :
    let s := (State.reset.trapEntry .overflow).issue 0x0000_0002_0001_22
    s.fault = true ∧ noReset 2 s ∧ ∃ t, Host.Core.run Sys2Proof.core 2 s = .next t :=
  ⟨by decide, by unfold noReset; decide, _, rfl⟩

theorem witness_StepTakesOneEventAndKeepsConfiguration :
    ∃ t, step (State.reset.issue 0x22) = .next t := ⟨_, rfl⟩

theorem witness_StepTakesOneEventAndKeepsConfiguration_idle :
    (State.reset.trapEntry .overflow).inputs = [] := rfl

theorem witness_OperationsLeaveAllElseUnchanged :
    ∃ t, exec (.addT ⟨0x7F, 0xFF⟩ ⟨0, 1⟩) State.reset = .next t := ⟨_, rfl⟩

theorem witness_OperationsLeaveAllElseUnchanged_completing :
    ∃ t, exec (.addT ⟨0, 1⟩ ⟨0, 1⟩) State.reset = .next t ∧ t.fault = false := ⟨_, rfl, rfl⟩

theorem witness_TrapChangesOnlyStatusAndResponse :
    State.reset.fault = false ∧ ∃ t, exec (.divT ⟨0, 1⟩ ⟨0, 0⟩) State.reset = .next t ∧ t.fault = true :=
  ⟨rfl, _, rfl, by decide⟩

theorem witness_ResponseDependsOnStatusAndCommandAlone :
    let s := State.reset
    let s' := ({ State.reset with draws := 7 } : State)
    let i := Instr.divrem ⟨0, 7⟩ ⟨0, 2⟩
    s.cfg = s'.cfg ∧ s.status = s'.status ∧ (∃ t, exec i s = .next t) ∧ ∃ t', exec i s' = .next t' :=
  ⟨rfl, rfl, ⟨_, rfl⟩, ⟨_, rfl⟩⟩

theorem witness_ResponseDependsOnStatusAndCommandAlone_no_draw :
    let s := State.reset
    let s' := State.reset.issue 1
    let i := Instr.add ⟨0, 7⟩ ⟨0, 2⟩
    s.cfg = s'.cfg ∧ s.status = s'.status ∧ (∃ t, exec i s = .next t) ∧ (∃ t', exec i s' = .next t') ∧
      (s.draws = s'.draws ∨ canDraw i = false) :=
  ⟨rfl, rfl, ⟨_, rfl⟩, ⟨_, rfl⟩, .inl rfl⟩

theorem witness_UnlistedResultsAreZero :
    ∃ t ρ, exec (.cmpeq ⟨1, 0⟩ ⟨1, 0⟩) State.reset = .next t ∧ t.response = some ρ ∧ ρ.trap = false ∧
      (Instr.cmpeq ⟨1, 0⟩ ⟨1, 0⟩).writesS = false ∧ (Instr.cmpeq ⟨1, 0⟩ ⟨1, 0⟩).writesOvf = false :=
  ⟨_, _, rfl, rfl, by decide, rfl, rfl⟩

theorem witness_NonTrappingOperationsComplete :
    State.reset.fault = false ∧ canTrap (.divrem ⟨0, 0⟩ ⟨0, 0⟩) = false := by decide

theorem witness_ResponseWordFields :
    let ρ : Response := ⟨false, 0, true, ⟨255, 255⟩, ⟨255, 254⟩⟩
    ρ.r.fits Config.default.W = true ∧ ρ.s.fits Config.default.W = true := by decide

theorem witness_PackAndValAreInverse :
    Config.default.MIN ≤ -32768 ∧ (-32768 : Int) ≤ Config.default.MAX ∧ 65535 < 2 ^ Config.default.D := by decide

theorem witness_EqualityComparesTheIntegers : State.reset.fault = false := rfl

theorem witness_OrderingComparesTheIntegers : State.reset.fault = false := rfl

theorem witness_MagnitudeIsTheAbsoluteValue : State.reset.fault = false := rfl

theorem witness_AddFollowsTheLimbRule : State.reset.fault = false ∧ State.reset.cfg.DEPTH = 1 := ⟨rfl, rfl⟩

theorem witness_SubFollowsTheLimbRule : State.reset.fault = false ∧ State.reset.cfg.DEPTH = 1 := ⟨rfl, rfl⟩

theorem witness_AddFlagAgainstTrueOverflow :
    State.reset.fault = false ∧ (State.reset.cfg.signed = false ∨ State.reset.cfg.DEPTH = 1) := ⟨rfl, .inr rfl⟩

theorem witness_AddFlagAgainstTrueOverflow_unsigned :
    let s := State.resetOf ⟨1, 1, false, 63⟩
    s.fault = false ∧ (s.cfg.signed = false ∨ s.cfg.DEPTH = 1) := ⟨rfl, .inl rfl⟩

theorem witness_AddFlagAgainstTrueOverflow_nested :
    let s := State.resetOf ⟨0, 1, true, 63⟩
    s.fault = false ∧ s.cfg.DEPTH = 2 ∧
      nestedAddFalseAlarm true s.cfg.primitiveBits (s.operand ⟨0x80FF, 0⟩) (s.operand ⟨0xFF01, 0⟩) = true := by decide

theorem witness_SubFlagAgainstTrueOverflow :
    State.reset.fault = false ∧ (State.reset.cfg.signed = false ∨ State.reset.cfg.DEPTH = 1) := ⟨rfl, .inr rfl⟩

theorem witness_SubFlagAgainstTrueOverflow_unsigned :
    let s := State.resetOf ⟨1, 1, false, 63⟩
    s.fault = false ∧ (s.cfg.signed = false ∨ s.cfg.DEPTH = 1) := ⟨rfl, .inl rfl⟩

theorem witness_SubFlagAgainstTrueOverflow_nested :
    let s := State.resetOf ⟨0, 1, true, 63⟩
    s.fault = false ∧ s.cfg.DEPTH = 2 ∧
      nestedSubFalseAlarm true s.cfg.primitiveBits (s.operand ⟨0x7F00, 0⟩) (s.operand ⟨0xFF01, 0⟩) = true := by decide

theorem witness_TrappingAddFollowsReportingAdd : State.reset.fault = false := rfl

theorem witness_TrappingSubFollowsReportingSub : State.reset.fault = false := rfl

theorem witness_TrappingMulFollowsReportingMul : State.reset.fault = false := rfl

theorem witness_TrappingAddAndSubComplete :
    let s := State.reset
    let x := s.operand ⟨0x7F, 0xFF⟩
    let y := s.operand ⟨0xFF, 0xFF⟩
    s.fault = false ∧ s.cfg.signed = true ∧ trueOverflow true s.cfg.D (x.val true + y.val true) = false ∧
      nestedAddFalseAlarm true s.cfg.primitiveBits x y = false := by decide

theorem witness_TrappingAddAndSubComplete_sub :
    let s := State.reset
    let x := s.operand ⟨0xFF, 0xFF⟩
    let y := s.operand ⟨0x80, 0⟩
    s.fault = false ∧ s.cfg.signed = true ∧ trueOverflow true s.cfg.D (x.val true - y.val true) = false ∧
      nestedSubFalseAlarm true s.cfg.primitiveBits x y = false := by decide

theorem witness_TrappingAddAndSubComplete_nested :
    let s := State.resetOf ⟨0, 1, true, 63⟩
    let x := s.operand ⟨0x8000, 0⟩
    let y := s.operand ⟨0x7FFF, 0xFFFF⟩
    s.fault = false ∧ s.cfg.DEPTH = 2 ∧ s.cfg.signed = true ∧
      trueOverflow true s.cfg.D (x.val true + y.val true) = false ∧
      nestedAddFalseAlarm true s.cfg.primitiveBits x y = false ∧
      trueOverflow true s.cfg.D (x.val true - x.val true) = false ∧
      nestedSubFalseAlarm true s.cfg.primitiveBits x x = false := by decide

theorem witness_TrappingAddAndSubComplete_trap :
    let s := State.resetOf ⟨0, 1, true, 63⟩
    s.fault = false ∧
      nestedAddFalseAlarm true s.cfg.primitiveBits (s.operand ⟨0x80FF, 0⟩) (s.operand ⟨0xFF01, 0⟩) = true ∧
      nestedSubFalseAlarm true s.cfg.primitiveBits (s.operand ⟨0x7F00, 0⟩) (s.operand ⟨0xFF01, 0⟩) = true := by decide

theorem witness_AddThenSubRestores : State.reset.fault = false := rfl

theorem witness_MulfullIsTheExactProduct : State.reset.fault = false := rfl

theorem witness_MulIsTheLowHalfWithItsFlag : State.reset.fault = false := rfl

theorem witness_TrappingMulCompletesWhenUnflagged :
    State.reset.fault = false ∧
      mulFlagged State.reset.cfg.signed (State.reset.operand ⟨0, 0xB5⟩) (State.reset.operand ⟨0, 0xB5⟩) = false ∧
      (State.reset.operand ⟨0, 0xB5⟩).isneg State.reset.cfg.signed
        = (State.reset.operand ⟨0, 0xB5⟩).isneg State.reset.cfg.signed := by decide

theorem witness_DivmagIsEuclideanDivision : (240 : Nat) < 2 ^ 8 ∧ (255 : Nat) < 2 ^ 8 ∧ (255 : Nat) ≠ 0 := by decide

theorem witness_DivremIsTruncatedDivision :
    let s := State.reset
    s.fault = false ∧ divOverflow s.cfg.signed s.cfg.D ((s.operand ⟨0x80, 1⟩).val s.cfg.signed)
      ((s.operand ⟨0xFF, 0xFF⟩).val s.cfg.signed) = false := by decide

theorem witness_DivisionLaws :
    let s := State.reset
    s.fault = false ∧ divOverflow s.cfg.signed s.cfg.D ((s.operand ⟨0xFF, 0xF9⟩).val s.cfg.signed)
      ((s.operand ⟨0, 2⟩).val s.cfg.signed) = false := by decide

theorem witness_ReportingDivisionsOverflowWithFreeResults :
    let s := State.reset
    s.fault = false ∧ divOverflow s.cfg.signed s.cfg.D ((s.operand ⟨0x80, 0⟩).val s.cfg.signed)
      ((s.operand ⟨0xFF, 0xFF⟩).val s.cfg.signed) = true := by decide

theorem witness_ReportingDivisionsOverflowWithFreeResults_zero :
    let s := State.reset
    s.fault = false ∧ divOverflow s.cfg.signed s.cfg.D ((s.operand ⟨0x12, 0x34⟩).val s.cfg.signed)
      ((s.operand ⟨0, 0⟩).val s.cfg.signed) = true := by decide

theorem witness_DivAndRemAreTruncatedDivision :
    let s := State.reset
    s.fault = false ∧ divOverflow s.cfg.signed s.cfg.D ((s.operand ⟨0, 0x64⟩).val s.cfg.signed)
      ((s.operand ⟨0xFF, 0xF9⟩).val s.cfg.signed) = false := by decide

theorem witness_TrappingDivisionsComplete :
    let s := State.reset
    s.fault = false ∧ divOverflow s.cfg.signed s.cfg.D ((s.operand ⟨0x80, 0⟩).val s.cfg.signed)
      ((s.operand ⟨0x80, 0⟩).val s.cfg.signed) = false := by decide

theorem witness_TrappingDivisionsTrapOnOverflow :
    let s := State.reset
    s.fault = false ∧ divOverflow s.cfg.signed s.cfg.D ((s.operand ⟨0x80, 0⟩).val s.cfg.signed)
      ((s.operand ⟨0xFF, 0xFF⟩).val s.cfg.signed) = true := by decide

theorem witness_TrappingDivisionsTrapOnOverflow_zero :
    let s := State.reset
    s.fault = false ∧ divOverflow s.cfg.signed s.cfg.D ((s.operand ⟨0, 5⟩).val s.cfg.signed)
      ((s.operand ⟨0, 0⟩).val s.cfg.signed) = true := by decide

theorem witness_DivfullCompletesWhenTheQuotientFits :
    let s := State.reset
    let nv := (s.operand ⟨0xFF, 0xFF⟩).val s.cfg.signed * 2 ^ s.cfg.D + ((s.operand ⟨0, 0⟩).unsigned : Int)
    let bv := (s.operand ⟨0, 2⟩).val s.cfg.signed
    s.fault = false ∧ divOverflow s.cfg.signed (4 * s.cfg.W) nv bv = false ∧
      trueOverflow s.cfg.signed s.cfg.D (nv.tdiv bv) = false := by decide

theorem witness_DivfullTrapsOverflowThenNarrow :
    let s := State.reset
    let nv := (s.operand ⟨0x80, 0⟩).val s.cfg.signed * 2 ^ s.cfg.D + ((s.operand ⟨0, 0⟩).unsigned : Int)
    s.fault = false ∧
      divOverflow s.cfg.signed (4 * s.cfg.W) nv ((s.operand ⟨0xFF, 0xFF⟩).val s.cfg.signed) = true := by decide

theorem witness_DivfullTrapsOverflowThenNarrow_narrow :
    let s := State.reset
    let nv := (s.operand ⟨0xFF, 0xFF⟩).val s.cfg.signed * 2 ^ s.cfg.D + ((s.operand ⟨0x80, 0⟩).unsigned : Int)
    let bv := (s.operand ⟨0xFF, 0xFF⟩).val s.cfg.signed
    s.fault = false ∧ divOverflow s.cfg.signed (4 * s.cfg.W) nv bv = false ∧
      trueOverflow s.cfg.signed s.cfg.D (nv.tdiv bv) = true := by decide

theorem witness_DivfullTrapsOverflowThenNarrow_unsigned :
    let s := State.resetOf ⟨0, 0, false, 63⟩
    s.fault = false ∧ s.cfg.signed = false ∧ (s.operand ⟨0, 3⟩).unsigned ≠ 0 := by decide

theorem witness_DivfullUndoesMulfull :
    State.reset.fault = false ∧ (State.reset.operand ⟨0xFF, 0xFF⟩).val State.reset.cfg.signed ≠ 0 := by decide

theorem witness_BitwiseOperatorsActBitByBit : State.reset.fault = false ∧ 15 < State.reset.cfg.D := by decide

theorem witness_WrappingShiftsMultiplyAndDivide : State.reset.fault = false := rfl

theorem witness_SaturatingShiftsMultiplyAndDivide :
    State.reset.fault = false ∧ 0 ≤ (State.reset.operand ⟨0x7F, 0xFF⟩).val State.reset.cfg.signed := by decide

theorem witness_SaturatingShiftsMultiplyAndDivide_negative :
    State.reset.fault = false ∧ (State.reset.operand ⟨0x80, 0⟩).val State.reset.cfg.signed < 0 := by decide

theorem witness_WrappingShiftIsTheShiftOfTheMaskedAmount :
    0 ≤ (State.reset.operand ⟨0, 15⟩).val State.reset.cfg.signed ∧
      (State.reset.operand ⟨0, 15⟩).val State.reset.cfg.signed < State.reset.cfg.D := by decide

theorem witness_ShiftLeftThenRight :
    State.reset.fault = false ∧ 4 ≤ State.reset.cfg.D ∧ 11 < State.reset.cfg.D - 4 := by decide

theorem witness_ShiftLeftThenRight_all :
    State.reset.fault = false ∧ 16 ≤ State.reset.cfg.D ∧ State.reset.cfg.D - 16 ≤ 0 ∧ 0 < State.reset.cfg.D := by decide

theorem witness_CountersCount :
    State.reset.fault = false ∧ (State.reset.operand ⟨0, 0⟩).unsigned = 0 ∧
      (State.reset.operand ⟨0x80, 0⟩).unsigned ≠ 0 := by decide

theorem witness_ByteSwapReversesTheBytes : State.reset.fault = false ∧ 1 < State.reset.cfg.D / 8 := by decide

theorem witness_WordExtractsTheIndexedWord :
    let s := State.resetOf ⟨1, 0, false, 7⟩
    s.fault = false ∧ s.cfg.N ∣ s.cfg.W ∧ (s.operand ⟨0, 3⟩).unsigned < s.cfg.D / s.cfg.N := by decide

theorem witness_WordExtractsTheIndexedWord_wide :
    let s := State.reset
    s.fault = false ∧ s.cfg.W ∣ s.cfg.N ∧ s.cfg.W < s.cfg.N ∧ (s.operand ⟨0, 0⟩).unsigned = 0 := by decide

theorem witness_WordTrapsInOrder :
    let s := State.resetOf ⟨0, 0, false, 11⟩
    s.fault = false ∧ ¬ (s.cfg.N ∣ s.cfg.W ∨ s.cfg.W ∣ s.cfg.N) := by decide

theorem witness_WordTrapsInOrder_index :
    let s := State.resetOf ⟨0, 0, false, 7⟩
    s.fault = false ∧ (s.cfg.N ∣ s.cfg.W ∨ s.cfg.W ∣ s.cfg.N) ∧
      (s.cfg.W < s.cfg.N ∧ 1 ≤ (s.operand ⟨0, 2⟩).unsigned ∨
        s.cfg.N ≤ s.cfg.W ∧ s.cfg.D / s.cfg.N ≤ (s.operand ⟨0, 2⟩).unsigned) := by decide

theorem witness_WordTrapsInOrder_wide :
    let s := State.reset
    s.fault = false ∧ (s.cfg.N ∣ s.cfg.W ∨ s.cfg.W ∣ s.cfg.N) ∧
      (s.cfg.W < s.cfg.N ∧ 1 ≤ (s.operand ⟨0, 1⟩).unsigned ∨
        s.cfg.N ≤ s.cfg.W ∧ s.cfg.D / s.cfg.N ≤ (s.operand ⟨0, 1⟩).unsigned) := by decide

theorem witness_NestedFlagIsTheLowerUnitsFlag :
    let s := State.resetOf ⟨0, 1, true, 63⟩
    s.fault = false ∧ s.cfg.nest = 0 + 1 := ⟨rfl, rfl⟩

end Sys2Proof.Tests
end

section
/-! The reading of values is reduced to the reading of one pattern of `D` bits (00_scope.md R11), for which packing and
reading are inverse (R13); the nested base's example (R8, 41_magnitude_addsub.md R78) follows from what ADD answers. -/

namespace Sys2Proof

/-! ### Reading a pattern of `d` bits, signed or unsigned -/

theorem minOf_le_bval (signed : Bool) {d : Nat} (x : BitVec d) : minOf signed d ≤ bval signed x := by
  cases signed with
  | false => exact Int.natCast_nonneg _
  | true => exact BitVec.le_toInt x

theorem bval_le_maxOf (signed : Bool) {d : Nat} (x : BitVec d) : bval signed x ≤ maxOf signed d := by
  cases signed with
  | false =>
    have hlt : (x.toNat : Int) < 2 ^ d := by exact_mod_cast x.isLt
    exact Int.le_sub_one_of_lt hlt
  | true => exact BitVec.toInt_le

@[simp] theorem ofInt_bval (signed : Bool) {d : Nat} (x : BitVec d) : BitVec.ofInt d (bval signed x) = x := by
  cases signed with
  | false => simp [bval]
  | true => exact BitVec.ofInt_toInt

/-- An integer of the type's range is read back from its pattern. -/
theorem bval_ofInt (signed : Bool) {d : Nat} (hd : 0 < d) {v : Int} (hmin : minOf signed d ≤ v)
    (hmax : v ≤ maxOf signed d) : bval signed (BitVec.ofInt d v) = v := by
  cases signed with
  | false =>
    have h0 : 0 ≤ v := hmin
    have hlt : v < 2 ^ d := Int.lt_of_le_sub_one hmax
    simp [bval, Int.emod_eq_of_lt h0 hlt, h0]
  | true => exact BitVec.toInt_ofInt_eq_self hd hmin (Int.lt_of_le_sub_one hmax)

/-! ### Values as patterns of `D` bits -/

/-- The value of a pair of limbs is the reading of its `D` bits as one pattern (R11). -/
theorem Value.val_eq_bval_bits (signed : Bool) {w : Nat} (x : Value w) : x.val signed = bval signed x.bits := by
  cases signed with
  | false => simp [Value.val, bval, Value.bits_toNat, Value.unsigned]
  | true =>
    rcases w.eq_zero_or_pos with rfl | hw
    · simp [Value.val, bval, BitVec.of_length_zero]
    · simp [Value.val, bval, Value.bits, BitVec.toInt_append, hw.ne', Int.mul_comm]

/-- The `D` bits determine the value (R11). -/
theorem Value.eq_of_bits_eq {w : Nat} {x y : Value w} (h : x.bits = y.bits) : x = y :=
  Value.eq_of_unsigned_eq (by rw [← x.bits_toNat, ← y.bits_toNat, h])

/-- `pack` reduces modulo `2^D`: its two limbs are those of the integer's `D`-bit pattern (R13). -/
theorem Value.unsigned_pack (w : Nat) (v : Int) : ((Value.pack w v).unsigned : Int) = v % 2 ^ (2 * w) := by
  have hlow : ((BitVec.ofInt w v).toNat : Int) = v % 2 ^ w := by
    rw [BitVec.toNat_ofInt, Int.toNat_of_nonneg (Int.emod_nonneg _ (by positivity))]
    norm_cast
  rw [Value.pack, Value.unsigned_mk_emod, hlow, Int.ediv_mul_add_emod]

@[simp] theorem Value.bits_pack (w : Nat) (v : Int) : (Value.pack w v).bits = BitVec.ofInt (w + w) v := by
  apply BitVec.eq_of_toNat_eq
  rw [Value.bits_toNat, BitVec.toNat_ofInt, ← two_mul]
  push_cast
  rw [← Value.unsigned_pack, Int.toNat_natCast]

/-! ### R13: packing and reading are inverse -/

@[simp] theorem Value.pack_val (signed : Bool) {w : Nat} (x : Value w) : Value.pack w (x.val signed) = x :=
  Value.eq_of_bits_eq (by rw [Value.bits_pack, Value.val_eq_bval_bits, ofInt_bval])

theorem Value.val_pack (signed : Bool) {w : Nat} (hw : 0 < w) {v : Int} (hmin : minOf signed (2 * w) ≤ v)
    (hmax : v ≤ maxOf signed (2 * w)) : (Value.pack w v).val signed = v := by
  rw [two_mul] at hmin hmax
  rw [Value.val_eq_bval_bits, Value.bits_pack, bval_ofInt signed (Nat.add_pos_left hw w) hmin hmax]

theorem Value.minOf_le_val (signed : Bool) {w : Nat} (x : Value w) : minOf signed (2 * w) ≤ x.val signed := by
  rw [Value.val_eq_bval_bits, two_mul]
  exact minOf_le_bval signed x.bits

theorem Value.val_le_maxOf (signed : Bool) {w : Nat} (x : Value w) : x.val signed ≤ maxOf signed (2 * w) := by
  rw [Value.val_eq_bval_bits, two_mul]
  exact bval_le_maxOf signed x.bits

theorem Config.W_pos (c : Config) : 0 < c.W := Nat.two_pow_pos _

end Sys2Proof

namespace Sys2Proof.Machine

@[simp] theorem State.resetOf_fault (c : Config) : (State.resetOf c).fault = false := by
  simp [State.fault]

/-- An answer given while no trap is pending, as the obligations write it. -/
theorem State.complete_eq_answered {s : State} (h : s.fault = false) (r v : Value s.cfg.W) (o : Bool) :
    s.complete r v o 0 = s.answered r v o := by
  simp [State.complete, State.answered, State.cause, Value.toPair, h]

/-- ADD answers the limb rule's value and flag while no trap is pending (41_magnitude_addsub.md R72). -/
theorem exec_add_eq_answered {s : State} (h : s.fault = false) {a b : Pair} {r : Value s.cfg.W} {o : Bool}
    (hadd : (s.operand a).add s.cfg.signed s.cfg.nest (s.operand b) = (r, o)) :
    exec (.add a b) s = .next (s.answered r (Value.zero s.cfg.W) o) := by
  have hperform : exec (.add a b) s =
      .next (s.perform (reporting ((s.operand a).add s.cfg.signed s.cfg.nest (s.operand b)))) := rfl
  rw [hperform, hadd, reporting, State.perform_done h, State.complete_eq_answered h]

/-- Settles O23: each law of R13 at the width of the configuration. -/
theorem packAndValAreInverse : Obligations.PackAndValAreInverse := by
  intro c
  refine ⟨fun x => ⟨x.pack_val c.signed, x.packu_unsigned, x.minOf_le_val c.signed, x.val_le_maxOf c.signed⟩,
    fun v hmin hmax => Value.val_pack c.signed c.W_pos hmin hmax, fun n hn => ?_⟩
  rw [Value.unsigned_packu]
  exact Nat.mod_eq_of_lt hn

/-- Settles O36: at DEPTH 2 the high limbs' own ADD raises the flag (the false alarm of R77, which R78 hands to the outer
level); at DEPTH 1 the high limbs add exactly and no carry comes from below. -/
theorem nestedBaseFlagsAnExactSum : Obligations.NestedBaseFlagsAnExactSum := by
  have hdeep : let s := State.resetOf ⟨0, 1, true, 63⟩
      (s.operand ⟨0x80FF, 0⟩).add s.cfg.signed s.cfg.nest (s.operand ⟨0xFF01, 0⟩) = (⟨0x8000, 0⟩, true) := by decide
  have hflat : let s := State.resetOf ⟨1, 0, true, 63⟩
      (s.operand ⟨0x80FF, 0⟩).add s.cfg.signed s.cfg.nest (s.operand ⟨0xFF01, 0⟩) = (⟨0x8000, 0⟩, false) := by decide
  exact ⟨rfl, rfl, rfl, rfl, exec_add_eq_answered (State.resetOf_fault _) hdeep,
    exec_add_eq_answered (State.resetOf_fault _) hflat⟩

end Sys2Proof.Machine
end

section
/-! What a step keeps (10_state.md R25 to R34). `step_forms` and `exec_cases` say what a step and an operation can do; the
invariant of `STATUS` and the response, the hold of a trap until reset, the frames and the independence from everything but
`STATUS` and the command are read off them. -/

namespace Sys2Proof.Machine

/-! ### The three forms of a step -/

theorem performCommand_of_decode {s : State} {cmd : Nat} {i : Instr} (h : decode s.cfg cmd = .ok i) :
    performCommand cmd s = exec i s := by
  simp [performCommand, h]

theorem step_of_command {s : State} {cmd : Nat} {rest : List Input} (h : s.inputs = .command cmd :: rest) :
    step s = performCommand cmd (s.take rest) := by
  simp [step, h]

/-- A command, reserved or not, performs one effect. -/
theorem performCommand_eq_perform (cmd : Nat) (s : State) :
    ∃ e : Effect s.cfg.W, performCommand cmd s = .next (s.perform e) := by
  obtain ⟨i, -, hexec⟩ | ⟨-, htrap⟩ := performCommand_cases cmd s
  · obtain ⟨e, he, -⟩ := exec_cases i s
    exact ⟨e, hexec.trans he⟩
  · exact ⟨_, htrap⟩

/-- Everything a step can answer: the state as it is, the unit after reset, or an effect performed. -/
theorem step_forms (s : State) :
    (s.inputs = [] ∧ step s = .next s) ∨
    (∃ rest, s.inputs = .reset :: rest ∧ step s = .next (s.take rest).resetUnit) ∨
    (∃ cmd rest, s.inputs = .command cmd :: rest ∧
      ∃ e : Effect (s.take rest).cfg.W, step s = .next ((s.take rest).perform e)) := by
  obtain hidle | hreset | ⟨cmd, rest, hin, hstep⟩ := step_cases s
  · exact .inl hidle
  · exact .inr (.inl hreset)
  · obtain ⟨e, he⟩ := performCommand_eq_perform cmd (s.take rest)
    exact .inr (.inr ⟨cmd, rest, hin, e, hstep.trans he⟩)

theorem step_answers (s : State) : ∃ t, step s = .next t := by
  obtain ⟨-, h⟩ | ⟨rest, -, h⟩ | ⟨cmd, rest, -, e, h⟩ := step_forms s <;> exact ⟨_, h⟩

/-- A step takes the next event and keeps the build parameters (R30, R41). -/
theorem step_cfg_inputs {s t : State} (h : step s = .next t) : t.cfg = s.cfg ∧ t.inputs = s.inputs.tail := by
  obtain ⟨hin, hstep⟩ | ⟨rest, hin, hstep⟩ | ⟨cmd, rest, hin, e, hstep⟩ := step_forms s <;>
    cases hstep.symm.trans h <;> simp [hin]

/-! ### The invariant of `STATUS` and the response -/

theorem Cause.code_bounds (c : Cause) : 1 ≤ c.code.toNat ∧ c.code.toNat ≤ 5 := by
  cases c <;> decide

@[simp] theorem Pair.zero_fits (w : Nat) : Pair.zero.fits w = true := by
  simp [Pair.fits, Pair.zero]

/-- A response with `trap = 1` is zeroed, so it is legal (R48, R132). -/
theorem Response.legal_trapped (c : Config) (cause : BitVec 3) :
    Response.Legal c { trap := true, cause := cause, ovf := false, r := Pair.zero, s := Pair.zero } := by
  simp [Response.Legal]

/-- A response with `trap = 0` is legal as soon as its results are values of the unit (R48, R53). -/
theorem Response.legal_completed (c : Config) (cause : BitVec 3) (ovf : Bool) (r v : Value c.W) :
    Response.Legal c { trap := false, cause := cause, ovf := ovf, r := r.toPair, s := v.toPair } := by
  simp [Response.Legal]

@[simp] theorem State.resetOf_cause (c : Config) : (State.resetOf c).cause = 0 := by
  simp [State.cause]

theorem State.inv_of_cleared {s : State} (hstatus : s.status = 0) (hresp : s.response = none) : s.Inv := by
  simp [State.Inv, State.LegalStatus, State.fault, State.cause, hstatus, hresp]

/-- With a response on the ports, the invariant is a legal `STATUS` shown by a legal response. -/
theorem State.inv_of_response {s : State} {ρ : Response} (hresp : s.response = some ρ) (hstatus : s.LegalStatus)
    (hlegal : ρ.Legal s.cfg) (htrap : ρ.trap = s.fault) (hcause : ρ.cause = s.cause) : s.Inv := by
  refine ⟨hstatus, fun hnone => ?_, fun ρ' hρ' => ?_⟩
  · cases hresp.symm.trans hnone
  · cases hresp.symm.trans hρ'
    exact ⟨hlegal, htrap, hcause⟩

theorem State.trapEntry_legalStatus (s : State) (c : Cause) : (s.trapEntry c).LegalStatus := by
  obtain ⟨hpos, hle⟩ := c.code_bounds
  simp only [State.LegalStatus, State.trapEntry_cause, State.trapEntry_fault]
  exact ⟨hle, iff_of_false nofun (by omega)⟩

/-- Whatever an operation does, the unit is legal after it if `STATUS` was legal before it. -/
theorem State.perform_inv {s : State} (h : s.LegalStatus) (e : Effect s.cfg.W) : (s.perform e).Inv := by
  obtain ⟨hfault, he⟩ | ⟨hfault, r, v, o, n, -, he⟩ | ⟨-, c, -, he⟩ := s.perform_cases e <;> rw [he]
  · exact inv_of_response s.refuse_response h (Response.legal_trapped _ _) hfault.symm rfl
  · refine inv_of_response (s.complete_response r v o n) h ?_ rfl rfl
    rw [hfault]
    exact Response.legal_completed _ _ _ _ _
  · exact inv_of_response (s.trapEntry_response c) (s.trapEntry_legalStatus c) (Response.legal_trapped _ _)
      (s.trapEntry_fault c).symm (s.trapEntry_cause c).symm

/-- Settles O13, by the form of the step; an operation restores the whole invariant from a legal `STATUS` alone. -/
theorem stepKeepsUnitInvariant : Obligations.StepKeepsUnitInvariant := by
  intro s t hinv hstep
  obtain ⟨-, h⟩ | ⟨rest, -, h⟩ | ⟨cmd, rest, -, e, h⟩ := step_forms s <;> cases h.symm.trans hstep
  · exact hinv
  · exact State.inv_of_cleared rfl rfl
  · exact State.perform_inv (s := s.take rest) hinv.1 e

/-! ### A trap holds until reset -/

/-- The answer of a unit that refuses every command (R133). -/
def State.refusal (s : State) : Response := ⟨true, s.cause, false, ⟨0, 0⟩, ⟨0, 0⟩⟩

/-- `t` is the unit of `s` with commands refused in between: only the waiting events and the response may differ, and the
response at most by being the refusal. -/
structure State.Held (s t : State) : Prop where
  status : t.status = s.status
  cfg : t.cfg = s.cfg
  draws : t.draws = s.draws
  response : t.response = s.response ∨ t.response = some s.refusal

theorem State.Held.refl (s : State) : s.Held s := ⟨rfl, rfl, rfl, .inl rfl⟩

theorem State.Held.trans {s t u : State} (hst : s.Held t) (htu : t.Held u) : s.Held u := by
  have hrefusal : t.refusal = s.refusal := by simp [State.refusal, State.cause_congr hst.status]
  refine ⟨htu.status.trans hst.status, htu.cfg.trans hst.cfg, htu.draws.trans hst.draws, ?_⟩
  obtain hu | hu := htu.response
  · rw [hu]
    exact hst.response
  · exact .inr (by rw [hu, hrefusal])

/-- A faulted unit refuses whatever is performed. -/
theorem State.held_perform_take {s : State} (h : s.fault = true) (rest : List Input)
    (e : Effect (s.take rest).cfg.W) : s.Held ((s.take rest).perform e) := by
  rw [State.perform_of_fault (s := s.take rest) h]
  exact ⟨rfl, rfl, rfl, .inr rfl⟩

theorem noReset_succ {k : Nat} {s t : State} (h : noReset (k + 1) s) (ht : t.inputs = s.inputs.tail) :
    s.inputs.head? ≠ some .reset ∧ noReset k t := by
  unfold noReset at h ⊢
  rw [ht]
  cases hin : s.inputs with
  | nil => simp
  | cons x xs =>
    rw [hin, List.take_succ_cons, List.mem_cons, not_or] at h
    obtain ⟨hx, hxs⟩ := h
    exact ⟨fun heq => hx (Option.some.inj heq).symm, hxs⟩

theorem step_held {s t : State} (hfault : s.fault = true) (hhead : s.inputs.head? ≠ some .reset)
    (hstep : step s = .next t) : s.Held t := by
  obtain ⟨-, h⟩ | ⟨rest, hin, -⟩ | ⟨cmd, rest, -, e, h⟩ := step_forms s
  · cases h.symm.trans hstep
    exact .refl s
  · exact absurd (by rw [hin]; rfl) hhead
  · cases h.symm.trans hstep
    exact State.held_perform_take hfault rest e

theorem run_succ {k : Nat} {s u : State} (h : step s = .next u) :
    Host.Core.run core (k + 1) s = Host.Core.run core k u := by
  have hcore : core.step s = .next u := h
  simp [Host.Core.run, hcore]

/-- A faulted unit is held through any run without a reset (R134). -/
theorem run_held (k : Nat) {s t : State} (hfault : s.fault = true) (hno : noReset k s)
    (hrun : Host.Core.run core k s = .next t) : s.Held t := by
  induction k generalizing s with
  | zero =>
    cases hrun
    exact .refl _
  | succ k ih =>
    obtain ⟨u, hstep⟩ := step_answers s
    obtain ⟨hhead, hrest⟩ := noReset_succ hno (step_cfg_inputs hstep).2
    have hheld := step_held hfault hhead hstep
    have hfault' : u.fault = true := (State.fault_congr hheld.status).trans hfault
    exact hheld.trans (ih hfault' hrest ((run_succ hstep).symm.trans hrun))

/-- Settles O15, from `run_held`, an induction over the number of steps. -/
theorem faultHoldsUntilReset : Obligations.FaultHoldsUntilReset := by
  intro k s t hfault hno hrun
  obtain ⟨hstatus, hcfg, hdraws, hresp⟩ := run_held k hfault hno hrun
  exact ⟨hstatus, (State.fault_congr hstatus).trans hfault, hcfg, hdraws, hresp⟩

/-! ### Totality and frames -/

/-- Settles O9: each form of a step, and each operation's effect performed, is a next state. -/
theorem everyStepAnswers : Obligations.EveryStepAnswers := by
  refine ⟨step_answers, fun i s => ?_⟩
  obtain ⟨e, he, -⟩ := exec_cases i s
  exact ⟨_, he⟩

/-- Settles O16: `step_cfg_inputs`, and the idle step is the identity (R140). -/
theorem stepTakesOneEventAndKeepsConfiguration : Obligations.StepTakesOneEventAndKeepsConfiguration := by
  refine ⟨fun s t h => step_cfg_inputs h, fun s hin => ?_⟩
  simp [step, hin]

/-- An operation changes `STATUS` only by a trap it can take. -/
theorem State.perform_status_frame {i : Instr} {s : State} {e : Effect s.cfg.W} (h : e.allowed i) :
    (s.perform e).status = s.status ∨ (s.fault = false ∧ canTrap i = true ∧ (s.perform e).fault = true) := by
  obtain ⟨-, he⟩ | ⟨-, r, v, o, n, -, he⟩ | ⟨hfault, c, rfl, he⟩ := s.perform_cases e <;> rw [he]
  · exact .inl rfl
  · exact .inl rfl
  · exact .inr ⟨hfault, h.1, s.trapEntry_fault c⟩

/-- An operation draws free values only if it is a reporting division (R34, R92). -/
theorem State.perform_draws_frame {i : Instr} {s : State} {e : Effect s.cfg.W} (h : e.allowed i) :
    (s.perform e).draws = s.draws ∨ (s.fault = false ∧ canDraw i = true) := by
  obtain ⟨-, he⟩ | ⟨hfault, r, v, o, n, rfl, he⟩ | ⟨-, c, -, he⟩ := s.perform_cases e <;> rw [he]
  · exact .inl rfl
  · obtain ⟨-, -, hdraw, -⟩ := h
    cases hcan : canDraw i with
    | true => exact .inr ⟨hfault, rfl⟩
    | false => exact .inl (by rw [State.complete_draws, hdraw hcan, Nat.add_zero])
  · exact .inl rfl

/-- Settles O17, from the one effect the operation performs and what its kind allows. -/
theorem operationsLeaveAllElseUnchanged : Obligations.OperationsLeaveAllElseUnchanged := by
  intro i s t hexec
  obtain ⟨e, he, hallowed⟩ := exec_cases i s
  cases he.symm.trans hexec
  exact ⟨s.perform_cfg e, s.perform_inputs e, State.perform_status_frame hallowed, State.perform_draws_frame hallowed⟩

/-! ### The response depends on `STATUS` and the command alone -/

/-- The same unit with the same `STATUS`, whatever else its state holds. -/
abbrev State.withRest (s : State) (inputs : List Input) (response : Option Response) (draws : Nat) : State :=
  { s with inputs := inputs, response := response, draws := draws }

theorem State.eq_withRest {s s' : State} (hcfg : s.cfg = s'.cfg) (hstatus : s.status = s'.status) :
    s' = s.withRest s'.inputs s'.response s'.draws := by
  simp [State.withRest, hcfg, hstatus]

/-- Two effects that differ at most in the results of an overflow, which may be drawn (R92). -/
def Effect.Agree {w : Nat} : Effect w → Effect w → Prop
  | .done r v o _, .done r' v' o' _ => o = o' ∧ (o = false → r = r' ∧ v = v')
  | .trap c, .trap c' => c = c'
  | _, _ => False

theorem Effect.Agree.refl {w : Nat} (e : Effect w) : e.Agree e := by
  cases e <;> simp [Effect.Agree]

/-- Two reported overflows agree, whatever was drawn for their results. -/
theorem Effect.agree_overflow {w : Nat} (r v r' v' : Value w) (n n' : Nat) :
    Effect.Agree (.done r v true n) (.done r' v' true n') := by
  simp [Effect.Agree]

theorem Effect.agree_ite {w : Nat} {p : Prop} [Decidable p] {e e' : Effect w} (f : Effect w) (h : e.Agree e') :
    Effect.Agree (if p then e else f) (if p then e' else f) := by
  split
  · exact h
  · exact .refl f

/-- In two units of the same configuration an instruction performs effects that agree, and that are the same unless it draws
from different counters. The case split is over the instructions: only the reporting divisions read the counter. -/
theorem exec_withRest (i : Instr) (s : State) (l : List Input) (ρ : Option Response) (n : Nat) :
    ∃ e e' : Effect s.cfg.W, exec i s = .next (s.perform e) ∧
      exec i (s.withRest l ρ n) = .next ((s.withRest l ρ n).perform e') ∧
      e.Agree e' ∧ (s.draws = n ∨ canDraw i = false → e = e') := by
  cases i with
  | divrem a b | div a b | rem a b =>
    refine ⟨_, _, rfl, rfl, Effect.agree_ite _ (Effect.agree_overflow ..), fun h => ?_⟩
    obtain rfl := h.resolve_right (by simp [canDraw])
    rfl
  | _ => exact ⟨_, _, rfl, rfl, .refl _, fun _ => rfl⟩

/-- The same effect gives the same response whatever else the state holds. -/
theorem State.perform_response_withRest (s : State) (l : List Input) (ρ : Option Response) (n : Nat)
    (e : Effect s.cfg.W) : (s.perform e).response = ((s.withRest l ρ n).perform e).response := by
  obtain ⟨hfault, he⟩ | ⟨hfault, r, v, o, m, rfl, he⟩ | ⟨hfault, c, rfl, he⟩ := s.perform_cases e <;> rw [he]
  · rw [State.perform_of_fault (s := s.withRest l ρ n) hfault]
    rfl
  · rw [State.perform_done (s := s.withRest l ρ n) hfault]
    rfl
  · rw [State.perform_trap (s := s.withRest l ρ n) hfault]
    rfl

/-- Two answers that agree in everything but the results of an overflow. -/
def Response.Agree (p p' : Response) : Prop :=
  p.trap = p'.trap ∧ p.cause = p'.cause ∧ p.ovf = p'.ovf ∧ (p.ovf = false → p = p')

theorem Response.Agree.refl (p : Response) : p.Agree p := ⟨rfl, rfl, rfl, fun _ => rfl⟩

/-- Effects that agree give the same `STATUS`, and responses that agree, whatever else the state holds. -/
theorem State.perform_agree {s : State} {e e' : Effect s.cfg.W} (h : e.Agree e') (l : List Input)
    (ρ : Option Response) (n : Nat) :
    (s.perform e).status = ((s.withRest l ρ n).perform e').status ∧
      ∃ p p', (s.perform e).response = some p ∧ ((s.withRest l ρ n).perform e').response = some p' ∧ p.Agree p' := by
  cases hfault : s.fault with
  | true =>
    rw [State.perform_of_fault hfault, State.perform_of_fault (s := s.withRest l ρ n) hfault]
    exact ⟨rfl, _, _, rfl, rfl, .refl _⟩
  | false =>
    cases e with
    | done r v o m =>
      cases e' with
      | done r' v' o' m' =>
        obtain ⟨rfl, heq⟩ := h
        rw [State.perform_done hfault, State.perform_done (s := s.withRest l ρ n) hfault]
        refine ⟨rfl, _, _, rfl, rfl, rfl, rfl, rfl, fun ho => ?_⟩
        obtain ⟨rfl, rfl⟩ := heq ho
        rfl
      | trap c' => exact h.elim
    | trap c =>
      cases e' with
      | done r' v' o' m' => exact h.elim
      | trap c' =>
        obtain rfl : c = c' := h
        rw [State.perform_trap hfault, State.perform_trap (s := s.withRest l ρ n) hfault]
        exact ⟨rfl, _, _, rfl, rfl, .refl _⟩

/-- Settles O19: the second state is the first with its other fields replaced, and the two effects agree. -/
theorem responseDependsOnStatusAndCommandAlone : Obligations.ResponseDependsOnStatusAndCommandAlone := by
  intro i s s' t t' hcfg hstatus hexec hexec'
  obtain ⟨e, e', he, he', hagree, heq⟩ := exec_withRest i s s'.inputs s'.response s'.draws
  rw [State.eq_withRest hcfg hstatus] at hexec'
  cases he.symm.trans hexec
  cases he'.symm.trans hexec'
  obtain ⟨hst, p, p', hp, hp', htrap, hcause, hovf, hwhole⟩ := State.perform_agree hagree s'.inputs s'.response s'.draws
  refine ⟨hst, fun hdraw => ?_, p, p', hp, hp', htrap, hcause, hovf, hwhole⟩
  rw [← heq hdraw]
  exact s.perform_response_withRest ..

/-! ### Commands and the state after reset -/

/-- Settles O8: the step performs the command, and performing a command that decodes is `exec`; the command `withFetchWord`
puts first is taken off again. -/
theorem commandStepRunsTheDecodedInstruction : Obligations.CommandStepRunsTheDecodedInstruction := by
  refine ⟨fun s cmd rest i hin hdec => ?_, fun s nbits w i hdec => ?_⟩
  · exact (step_of_command hin).trans (performCommand_of_decode hdec)
  · exact (step_of_command (s := s.withFetchWord nbits w) rfl).trans (performCommand_of_decode hdec)

/-- Settles O12: each row of R33's table. -/
theorem resetStateHasNoFaultAndNoResponse : Obligations.ResetStateHasNoFaultAndNoResponse :=
  ⟨fun c => ⟨State.resetOf_fault c, State.resetOf_cause c, rfl, rfl⟩, Config.default, rfl⟩

/-- Settles O14: a unit right after reset has `STATUS = 0` and shows no response. -/
theorem resetMeetsUnitInvariant : Obligations.ResetMeetsUnitInvariant :=
  ⟨fun _ => State.inv_of_cleared rfl rfl, State.inv_of_cleared rfl rfl⟩

end Sys2Proof.Machine
end

section
/-! The command and response words (30_encoding.md R46, R48) are read field by field: how a field of an assembled word is found,
then what the code of a command word says of the operands (R47, R50, R52). `decodeOp_eq_ok_iff` says both ways what the
decoder answers; round trips, unread fields and reserved codes are read off it. -/

namespace Sys2Proof

open Machine

/-! ### Fields of a word (R10) -/

/-- Past a field of `n` bits the rest of the word is read as a word of its own. -/
theorem cmdField_add_mul {x n : Nat} (h : x < 2 ^ n) (y off width : Nat) :
    cmdField (x + 2 ^ n * y) (n + off) width = cmdField y off width := by
  rw [cmdField, pow_add, ← Nat.div_div_eq_div_mul, Nat.add_mul_div_left _ _ (Nat.two_pow_pos n), Nat.div_eq_of_lt h,
    Nat.zero_add, cmdField]

/-- The lowest field of a word. -/
theorem cmdField_zero_add_mul {x n : Nat} (h : x < 2 ^ n) (y : Nat) : cmdField (x + 2 ^ n * y) 0 n = x := by
  rw [cmdField, pow_zero, Nat.div_one, Nat.add_mul_mod_self_left, Nat.mod_eq_of_lt h]

theorem cmdField_lt (x off width : Nat) : cmdField x off width < 2 ^ width :=
  Nat.mod_lt _ (Nat.two_pow_pos width)

/-- A field cut in two. -/
theorem cmdField_add_width (x off m n : Nat) :
    cmdField x off (m + n) = cmdField x off m + 2 ^ m * cmdField x (off + m) n := by
  simp only [cmdField, pow_add, Nat.mod_mul, Nat.div_div_eq_div_mul]

/-- A word as long as its only field. -/
theorem cmdField_zero_of_lt {x n : Nat} (h : x < 2 ^ n) : cmdField x 0 n = x :=
  cmdField_zero_add_mul h 0

theorem add_two_pow_mul_lt {x y m n : Nat} (hx : x < 2 ^ m) (hy : y < 2 ^ n) : x + 2 ^ m * y < 2 ^ (m + n) := by
  rw [pow_add]
  exact Nat.add_mul_lt_mul_of_lt_of_lt hx hy

theorem cmdOp_eq_mod (cmd : Nat) : cmdOp cmd = cmd % 256 := by
  simp [cmdOp, cmdField]

/-! ### A pair of limbs in a word -/

/-- The pair whose low limb stands at `off` and whose high limb follows it (R46). -/
def pairField (w cmd off : Nat) : Pair := ⟨cmdField cmd (off + w) w, cmdField cmd off w⟩

theorem pairField_fits (w cmd off : Nat) : (pairField w cmd off).fits w = true := by
  simp [pairField, Pair.fits, cmdField_lt]

/-- The limbs of a pair are one field of `D` bits. -/
theorem pairField_bits (w cmd off : Nat) : (pairField w cmd off).bits w = cmdField cmd off (2 * w) := by
  rw [two_mul, cmdField_add_width, pairField, Pair.bits, Nat.add_comm, Nat.mul_comm]

/-- Past a field of `n` bits a pair is read in the rest of the word. -/
theorem pairField_add_mul {x n : Nat} (h : x < 2 ^ n) (w y off : Nat) :
    pairField w (x + 2 ^ n * y) (n + off) = pairField w y off := by
  simp only [pairField, Nat.add_assoc, cmdField_add_mul h]

/-- A pair at the bottom of a word. -/
theorem pairField_bits_add_mul {w : Nat} {p : Pair} (h : p.fits w = true) (y : Nat) :
    pairField w (p.bits w + 2 ^ (2 * w) * y) 0 = p := by
  have hlimbs : p.bits w + 2 ^ (2 * w) * y = p.low + 2 ^ w * (p.high + 2 ^ w * y) := by
    rw [Pair.bits, two_mul, pow_add]
    ring
  simp only [Pair.fits, Bool.and_eq_true, decide_eq_true_eq] at h
  obtain ⟨hhigh, hlow⟩ := h
  have hfield : cmdField (p.low + 2 ^ w * (p.high + 2 ^ w * y)) w w = p.high :=
    (cmdField_add_mul hlow _ 0 w).trans (cmdField_zero_add_mul hhigh y)
  rw [hlimbs, pairField, Nat.zero_add, cmdField_zero_add_mul hlow, hfield]

theorem cmdA_eq_pairField (c : Config) (cmd : Nat) : cmdA c cmd = pairField c.W cmd 8 := rfl

theorem cmdB_eq_pairField (c : Config) (cmd : Nat) : cmdB c cmd = pairField c.W cmd (8 + c.D) := by
  rw [cmdB, pairField, show 8 + 3 * c.W = 8 + c.D + c.W by rw [Config.D]; omega, ← Config.D]

theorem cmdC_eq_pairField (c : Config) (cmd : Nat) : cmdC c cmd = pairField c.W cmd (8 + (c.D + c.D)) := by
  rw [cmdC, pairField, show 8 + 5 * c.W = 8 + (c.D + c.D) + c.W by rw [Config.D]; omega,
    show 4 * c.W = c.D + c.D by rw [Config.D]; omega]

/-! ### The command word: assembling and reading (R46) -/

theorem cmdA_cmdWord (c : Config) {op : Nat} {pa : Pair} (hop : op < 256) (ha : pa.fits c.W = true) (pb pc : Pair) :
    cmdA c (cmdWord c op pa pb pc) = pa :=
  (pairField_add_mul hop c.W _ 0).trans (pairField_bits_add_mul ha _)

theorem cmdB_cmdWord (c : Config) {op : Nat} {pa pb : Pair} (hop : op < 256) (ha : pa.fits c.W = true)
    (hb : pb.fits c.W = true) (pc : Pair) : cmdB c (cmdWord c op pa pb pc) = pb := by
  rw [cmdB_eq_pairField]
  exact (pairField_add_mul hop c.W _ c.D).trans <| (pairField_add_mul (Pair.bits_lt ha) c.W _ 0).trans <|
    pairField_bits_add_mul hb _

theorem cmdC_cmdWord (c : Config) {op : Nat} {pa pb pc : Pair} (hop : op < 256) (ha : pa.fits c.W = true)
    (hb : pb.fits c.W = true) (hc : pc.fits c.W = true) : cmdC c (cmdWord c op pa pb pc) = pc := by
  rw [cmdC_eq_pairField]
  exact (pairField_add_mul hop c.W _ (c.D + c.D)).trans <| (pairField_add_mul (Pair.bits_lt ha) c.W _ c.D).trans <|
    (pairField_add_mul (Pair.bits_lt hb) c.W _ 0).trans <| pairField_bits_add_mul hc 0

/-- A word of the format's length is assembled from its own four fields. -/
theorem cmdWord_fields (c : Config) {cmd : Nat} (h : cmd < 2 ^ (8 + 6 * c.W)) :
    cmdWord c (cmdOp cmd) (cmdA c cmd) (cmdB c cmd) (cmdC c cmd) = cmd := by
  have hlen : 8 + 6 * c.W = 8 + (c.D + (c.D + c.D)) := by rw [Config.D]; omega
  rw [hlen] at h
  calc cmdWord c (cmdOp cmd) (cmdA c cmd) (cmdB c cmd) (cmdC c cmd)
      = cmdField cmd 0 8 + 2 ^ 8 * (cmdField cmd 8 c.D + 2 ^ c.D * (cmdField cmd (8 + c.D) c.D
          + 2 ^ c.D * cmdField cmd (8 + (c.D + c.D)) c.D)) := by
        rw [cmdWord, cmdA_eq_pairField, cmdB_eq_pairField, cmdC_eq_pairField, pairField_bits, pairField_bits,
          pairField_bits, ← Config.D, cmdOp]
    _ = cmdField cmd 0 (8 + (c.D + (c.D + c.D))) := by
        rw [cmdField_add_width cmd 0, cmdField_add_width cmd (0 + 8), cmdField_add_width cmd (0 + 8 + c.D),
          Nat.zero_add, Nat.add_assoc]
    _ = cmd := cmdField_zero_of_lt h

/-! ### What a code says of its operation (R47, R50, R52) -/

/-- The code fixes how many operands are read: `a` only, `a` and `b`, or, for DIVFULL, all three (R47). -/
theorem Instr.operands_cases (i : Instr) :
    (∃ pa, i.operands = [pa] ∧ readsOnlyA i.opcode = true ∧ i.opcode ≠ 0x47) ∨
    (∃ pa pb, i.operands = [pa, pb] ∧ readsOnlyA i.opcode = false ∧ i.opcode ≠ 0x47) ∨
    (∃ pa pb pc, i.operands = [pa, pb, pc] ∧ readsOnlyA i.opcode = false ∧ i.opcode = 0x47) := by
  cases i with
  | mag | lzc | tzc | popc | bswap => exact .inl ⟨_, rfl, rfl, by simp [Instr.opcode]⟩
  | divfull => exact .inr (.inr ⟨_, _, _, rfl, rfl, rfl⟩)
  | _ => exact .inr (.inl ⟨_, _, rfl, rfl, by simp [Instr.opcode]⟩)

theorem Instr.reservedCode_opcode (i : Instr) : reservedCode i.opcode = false := by
  cases i <;> rfl

/-- The operands decoded are the fields read, in order. -/
theorem decodeOp_operands {op : Nat} {pa pb pc : Pair} {i : Instr} (h : decodeOp op pa pb pc = .ok i) :
    i.operands <+: [pa, pb, pc] := by
  unfold decodeOp at h
  split at h <;> cases h <;> simp [Instr.operands]

/-- The code of an instruction with its operands in the fields it reads decodes to it. -/
theorem decodeOp_of_operands_prefix {i : Instr} {pa pb pc : Pair} (h : i.operands <+: [pa, pb, pc]) :
    decodeOp i.opcode pa pb pc = .ok i := by
  cases i with
  | mag | lzc | tzc | popc | bswap =>
    obtain ⟨rfl, -⟩ := List.cons_prefix_cons.mp h
    rfl
  | divfull =>
    obtain ⟨rfl, hbc⟩ := List.cons_prefix_cons.mp h
    obtain ⟨rfl, hc⟩ := List.cons_prefix_cons.mp hbc
    obtain ⟨rfl, -⟩ := List.cons_prefix_cons.mp hc
    rfl
  | _ =>
    obtain ⟨rfl, hb⟩ := List.cons_prefix_cons.mp h
    obtain ⟨rfl, -⟩ := List.cons_prefix_cons.mp hb
    rfl

/-- A code and three fields decode to the instruction of that code whose operands are the fields it reads. -/
theorem decodeOp_eq_ok_iff {op : Nat} {pa pb pc : Pair} {i : Instr} :
    decodeOp op pa pb pc = .ok i ↔ i.opcode = op ∧ i.operands <+: [pa, pb, pc] := by
  refine ⟨fun h => ⟨decodeOp_opcode h, decodeOp_operands h⟩, fun ⟨hop, hpre⟩ => ?_⟩
  rw [← hop]
  exact decodeOp_of_operands_prefix hpre

theorem decode_eq_ok_iff {c : Config} {cmd : Nat} {i : Instr} :
    decode c cmd = .ok i ↔ i.opcode = cmd % 256 ∧ i.operands <+: [cmdA c cmd, cmdB c cmd, cmdC c cmd] := by
  rw [decode, decodeOp_eq_ok_iff, cmdOp_eq_mod]

/-- A reserved code is refused by name: an instruction's code would not be reserved. -/
theorem decodeOp_of_reserved {op : Nat} (h : reservedCode op = true) (pa pb pc : Pair) :
    decodeOp op pa pb pc = .error (.reserved op) := by
  cases hdec : decodeOp op pa pb pc with
  | ok i =>
    have hfree := i.reservedCode_opcode
    rw [decodeOp_opcode hdec, h] at hfree
    cases hfree
  | error e => rw [decodeOp_error hdec]

/-- Every code outside the reserved ranges has an operation. -/
theorem exists_decodeOp_eq_ok {op : Nat} (hop : op < 256) (h : reservedCode op = false) (pa pb pc : Pair) :
    ∃ i, decodeOp op pa pb pc = .ok i := by
  unfold decodeOp
  split
  case h_34 =>
    simp only [reservedCode, Bool.or_eq_false_iff, decide_eq_false_iff_not, imp_false] at *
    omega
  all_goals exact ⟨_, rfl⟩

theorem decode_of_reserved (c : Config) {cmd : Nat} (h : reservedCode (cmd % 256) = true) :
    decode c cmd = .error (.reserved (cmd % 256)) := by
  rw [← cmdOp_eq_mod] at h ⊢
  exact decodeOp_of_reserved h _ _ _

theorem exists_decode_eq_ok (c : Config) {cmd : Nat} (h : reservedCode (cmd % 256) = false) :
    ∃ i, decode c cmd = .ok i := by
  rw [← cmdOp_eq_mod] at h
  exact exists_decodeOp_eq_ok (cmdField_lt cmd 0 8) h _ _ _

/-! ### The fields an instruction is written into and read from -/

theorem Instr.operands_prefix_operandOrZero (i : Instr) :
    i.operands <+: [i.operandOrZero 0, i.operandOrZero 1, i.operandOrZero 2] := by
  obtain ⟨pa, h, -⟩ | ⟨pa, pb, h, -⟩ | ⟨pa, pb, pc, h, -⟩ := i.operands_cases <;> simp [Instr.operandOrZero, h]

theorem Instr.operandOrZero_fits {c : Config} {i : Instr} (h : i.wellFormed c = true) (k : Nat) :
    (i.operandOrZero k).fits c.W = true := by
  unfold Instr.operandOrZero
  rcases Nat.lt_or_ge k i.operands.length with hk | hk
  · rw [List.getD_eq_getElem _ _ hk]
    exact List.all_eq_true.mp h _ (List.getElem_mem hk)
  · rw [List.getD_eq_default _ _ hk]
    exact Pair.zero_fits c.W

/-- Fields that are zero where they are not read are the fields the instruction is written with (R56). -/
theorem Instr.operandOrZero_of_prefix {i : Instr} {pa pb pc : Pair} (h : i.operands <+: [pa, pb, pc])
    (hb : readsOnlyA i.opcode = true → pb = Pair.zero) (hc : i.opcode ≠ 0x47 → pc = Pair.zero) :
    i.operandOrZero 0 = pa ∧ i.operandOrZero 1 = pb ∧ i.operandOrZero 2 = pc := by
  obtain ⟨qa, hq, honly, hop⟩ | ⟨qa, qb, hq, -, hop⟩ | ⟨qa, qb, qc, hq, -, -⟩ := i.operands_cases <;> rw [hq] at h
  · obtain rfl : qa = pa := by simpa using h
    simp [Instr.operandOrZero, hq, hb honly, hc hop]
  · obtain ⟨rfl, rfl⟩ : qa = pa ∧ qb = pb := by simpa using h
    simp [Instr.operandOrZero, hq, hc hop]
  · obtain ⟨rfl, rfl, rfl⟩ : qa = pa ∧ qb = pb ∧ qc = pc := by simpa using h
    simp [Instr.operandOrZero, hq]

/-- Fields an instruction does not read may be anything (R47). -/
theorem Instr.operands_prefix_congr {i : Instr} {pa pb pb' pc pc' : Pair} (h : i.operands <+: [pa, pb, pc])
    (hb : readsOnlyA i.opcode = true ∨ pb = pb') (hc : i.opcode = 0x47 → pc = pc') :
    i.operands <+: [pa, pb', pc'] := by
  obtain ⟨qa, hq, -⟩ | ⟨qa, qb, hq, honly, -⟩ | ⟨qa, qb, qc, -, honly, hop⟩ := i.operands_cases
  · rw [hq] at h ⊢
    simpa using h
  · have hb' : pb = pb' := hb.resolve_left (by simp [honly])
    rw [hq] at h ⊢
    simpa [hb'] using h
  · have hb' : pb = pb' := hb.resolve_left (by simp [honly])
    rw [← hb', ← hc hop]
    exact h

/-- The shift amount's `log2(D)` bits are the amount modulo `D` (R105). -/
theorem Config.two_pow_log2_D (c : Config) : 2 ^ Nat.log2 (2 * c.W) = c.D := by
  rw [Config.D, Config.W, ← Nat.pow_succ', Nat.log2_two_pow]

end Sys2Proof

namespace Sys2Proof.Machine

theorem maskedAmount_eq_mod_D (c : Config) (x : Value c.W) : maskedAmount x = x.unsigned % c.D := by
  rw [maskedAmount, c.two_pow_log2_D]

/-! ### The response word (R48) -/

/-- The flags of a response, `000 || ovf || cause || trap`: the low byte of its word. -/
def Response.flags (ρ : Response) : Nat := ρ.trap.toNat + 2 * (ρ.cause.toNat + 8 * ρ.ovf.toNat)

theorem Response.flags_lt (ρ : Response) : ρ.flags < 2 ^ 8 := by
  have htrap := ρ.trap.toNat_lt
  have hcause := ρ.cause.isLt
  have hovf := ρ.ovf.toNat_lt
  rw [Response.flags]
  omega

theorem Response.word_eq_flags_add (c : Config) (ρ : Response) :
    ρ.word c = ρ.flags + 2 ^ 8 * (ρ.r.bits c.W + 2 ^ (2 * c.W) * ρ.s.bits c.W) := by
  rw [Response.word, Response.flags, Config.D]
  ring

/-- The flags are read off the low byte, of which three bits are left over. -/
theorem Response.cmdField_word (c : Config) (ρ : Response) :
    cmdField (ρ.word c) 0 1 = ρ.trap.toNat ∧ cmdField (ρ.word c) 1 3 = ρ.cause.toNat ∧
      cmdField (ρ.word c) 4 1 = ρ.ovf.toNat ∧ cmdField (ρ.word c) 5 3 = 0 := by
  have htrap := ρ.trap.toNat_lt
  have hcause := ρ.cause.isLt
  have hovf := ρ.ovf.toNat_lt
  rw [Response.word_eq_flags_add, Response.flags]
  generalize ρ.r.bits c.W + 2 ^ (2 * c.W) * ρ.s.bits c.W = results
  simp only [cmdField]
  omega

theorem Response.pairField_word_r {c : Config} {ρ : Response} (hr : ρ.r.fits c.W = true) :
    pairField c.W (ρ.word c) 8 = ρ.r := by
  rw [Response.word_eq_flags_add]
  exact (pairField_add_mul ρ.flags_lt c.W _ 0).trans (pairField_bits_add_mul hr _)

theorem Response.pairField_word_s {c : Config} {ρ : Response} (hr : ρ.r.fits c.W = true) (hs : ρ.s.fits c.W = true) :
    pairField c.W (ρ.word c) (8 + 2 * c.W) = ρ.s := by
  rw [Response.word_eq_flags_add, pairField_add_mul ρ.flags_lt]
  exact (pairField_add_mul (Pair.bits_lt hr) c.W _ 0).trans (pairField_bits_add_mul hs 0)

theorem Response.word_lt {c : Config} {ρ : Response} (hr : ρ.r.fits c.W = true) (hs : ρ.s.fits c.W = true) :
    ρ.word c < 2 ^ (8 + 4 * c.W) := by
  rw [Response.word_eq_flags_add, show 4 * c.W = 2 * c.W + 2 * c.W by omega]
  exact add_two_pow_mul_lt ρ.flags_lt (add_two_pow_mul_lt (Pair.bits_lt hr) (Pair.bits_lt hs))

/-! ### The obligations -/

/-- Settles O2: the fields of the assembled word are the operands written, and the code selects the constructor. -/
theorem decodeOfEncodeIsIdentity : Obligations.DecodeOfEncodeIsIdentity := by
  intro c i hwf
  have hfits := Instr.operandOrZero_fits hwf
  rw [decode, cmdOp_encode, encode, cmdA_cmdWord c i.opcode_lt (hfits 0), cmdB_cmdWord c i.opcode_lt (hfits 0) (hfits 1),
    cmdC_cmdWord c i.opcode_lt (hfits 0) (hfits 1) (hfits 2)]
  exact decodeOp_of_operands_prefix i.operands_prefix_operandOrZero

/-- Settles O3: the operands written are the word's fields, from which the word is assembled. -/
theorem encodeOfDecodeIsIdentityOnCanonicalWords : Obligations.EncodeOfDecodeIsIdentityOnCanonicalWords := by
  intro c cmd i hdec hlen hb hc
  obtain ⟨hop, hpre⟩ := decode_eq_ok_iff.mp hdec
  rw [← hop] at hb hc
  obtain ⟨h0, h1, h2⟩ := Instr.operandOrZero_of_prefix hpre hb hc
  rw [encode, h0, h1, h2, hop, ← cmdOp_eq_mod, cmdWord_fields c hlen]

/-- Settles O4: every field of a word fits, whatever the word. -/
theorem decodedOperandsAreTheReadFields : Obligations.DecodedOperandsAreTheReadFields := by
  intro c cmd i hdec
  obtain ⟨hop, hpre⟩ := decode_eq_ok_iff.mp hdec
  refine ⟨List.all_eq_true.mpr fun p hp => ?_, hop, hpre⟩
  have hmem := hpre.subset hp
  rw [cmdA_eq_pairField, cmdB_eq_pairField, cmdC_eq_pairField] at hmem
  simp only [List.mem_cons, List.not_mem_nil, or_false] at hmem
  obtain rfl | rfl | rfl := hmem <;> exact pairField_fits _ _ _

/-- A reserved code decodes alike whatever the fields; any other to the instruction of the fields it reads (R47, R52). -/
theorem decode_congr {c : Config} {x y : Nat} (hop : x % 256 = y % 256) (ha : cmdA c x = cmdA c y)
    (hb : readsOnlyA (x % 256) = true ∨ cmdB c x = cmdB c y) (hc : x % 256 = 0x47 → cmdC c x = cmdC c y) :
    decode c x = decode c y := by
  cases hres : reservedCode (x % 256) with
  | true => rw [decode_of_reserved c hres, hop, decode_of_reserved c (hop ▸ hres)]
  | false =>
    obtain ⟨i, hdec⟩ := exists_decode_eq_ok c hres
    obtain ⟨hi, hpre⟩ := decode_eq_ok_iff.mp hdec
    rw [ha] at hpre
    rw [← hi] at hb hc
    rw [hdec, decode_eq_ok_iff.mpr ⟨hi.trans hop, Instr.operands_prefix_congr hpre hb hc⟩]

/-- A command is performed as what it decodes to. -/
theorem performCommand_congr {s : State} {x y : Nat} (h : decode s.cfg x = decode s.cfg y) :
    performCommand x s = performCommand y s := by
  rw [performCommand, h, performCommand]

/-- A wrapping shift looks at the low `log2(D)` bits of its amount (R105 to R107). -/
theorem exec_wrapping_congr {s : State} {b b' : Pair}
    (h : (s.operand b).unsigned % s.cfg.D = (s.operand b').unsigned % s.cfg.D) (a : Pair) :
    exec (.wshl a b) s = exec (.wshl a b') s ∧ exec (.wshr a b) s = exec (.wshr a b') s := by
  have hamount : maskedAmount (s.operand b) = maskedAmount (s.operand b') := by
    rw [maskedAmount_eq_mod_D, maskedAmount_eq_mod_D, h]
  simp only [exec, execWshl, execWshr, hamount, and_self]

/-- Settles O5: a step performs what its command decodes to, and a wrapping shift its masked amount. -/
theorem unreadFieldsAreIgnored : Obligations.UnreadFieldsAreIgnored := by
  refine ⟨fun c x y => decode_congr, fun s rest x y hop ha hb hc => ?_, fun s a b b' h => exec_wrapping_congr h a⟩
  rw [step_of_command rfl, step_of_command rfl]
  exact performCommand_congr (s := s.take rest) (decode_congr hop ha hb hc)

/-- Settles O6: a reserved code is the code of no instruction, and every other code selects one. -/
theorem decodeRefusesExactlyReservedCodes : Obligations.DecodeRefusesExactlyReservedCodes :=
  fun c _ => ⟨decode_of_reserved c, exists_decode_eq_ok c⟩

theorem performCommand_of_reserved {s : State} {cmd : Nat} (h : reservedCode (cmd % 256) = true) :
    performCommand cmd s = .next (s.perform (.trap .illegal)) := by
  rw [performCommand, decode_of_reserved _ h]
  rfl

/-- The trap of a cause, as the obligations write it (R132). -/
theorem State.trapEntry_eq_trapped (s : State) (c : Cause) : s.trapEntry c = s.trapped c.code.toNat := by
  cases c <;> rfl

/-- Settles O7: such a command performs the trap ILLEGAL, which is taken as no trap is pending. -/
theorem reservedCodesTrapIllegal : Obligations.ReservedCodesTrapIllegal := by
  intro s cmd rest hfault hin hres
  rw [step_of_command hin, performCommand_of_reserved hres, State.perform_trap (s := s.take rest) hfault,
    State.trapEntry_eq_trapped]
  rfl

/-- Settles O20: with `trap = 0` the operation completed, with results its kind allows. -/
theorem unlistedResultsAreZero : Obligations.UnlistedResultsAreZero := by
  intro i s t ρ hexec hresp htrap
  obtain ⟨e, he, hallowed⟩ := exec_cases i s
  cases he.symm.trans hexec
  obtain ⟨-, hp⟩ | ⟨-, r, v, o, n, rfl, hp⟩ | ⟨-, c, -, hp⟩ := s.perform_cases e <;> rw [hp] at hresp <;> cases hresp
  · cases htrap
  · obtain ⟨hs, hovf, -⟩ := hallowed
    refine ⟨fun h => ?_, hovf⟩
    rw [hs h]
    rfl
  · cases htrap

/-- Settles O22: the flags are the low byte, the two pairs stand above it. -/
theorem responseWordFields : Obligations.ResponseWordFields := by
  intro c ρ hr hs
  have hrpair : pairField c.W (ρ.word c) 8 = ρ.r := Response.pairField_word_r hr
  have hspair : pairField c.W (ρ.word c) (8 + 2 * c.W) = ρ.s := Response.pairField_word_s hr hs
  obtain ⟨htrap, hcause, hovf, hzero⟩ := ρ.cmdField_word c
  refine ⟨Response.word_lt hr hs, htrap, hcause, hovf, hzero, congrArg Pair.low hrpair, congrArg Pair.high hrpair,
    congrArg Pair.low hspair, ?_⟩
  rw [show 8 + 3 * c.W = 8 + 2 * c.W + c.W by omega]
  exact congrArg Pair.high hspair

/-- Settles O1: the decoder run on each word. -/
theorem decodesSampleWords : Obligations.DecodesSampleWords :=
  ⟨rfl, rfl, rfl, rfl, rfl, rfl, rfl, rfl⟩

/-- Settles O59, by the instructions: each has a mnemonic of its own among those with as many operands. -/
theorem assemblingALineGivesTheInstruction : Obligations.AssemblingALineGivesTheInstruction := by
  intro i
  cases i <;> rfl

end Sys2Proof.Machine
end

section
/-! The comparator's limb rules are the comparisons of `val` (40_ordering.md R61, R67): the high limbs decide, since the low
limb reads below `2^W`, and on a tie the low limbs do; equality of the limbs is equality of `val`, which determines the value. -/

namespace Sys2Proof

/-! ### The reading of a limb and of a value determine it, and the limbs order the values -/

theorem bval_injective (signed : Bool) (w : Nat) : Function.Injective (bval signed (w := w)) :=
  Function.LeftInverse.injective (g := BitVec.ofInt w) (ofInt_bval signed)

theorem Value.val_injective (signed : Bool) (w : Nat) : Function.Injective (Value.val signed (w := w)) :=
  Function.LeftInverse.injective (g := Value.pack w) (Value.pack_val signed)

/-- A smaller high limb makes a smaller value whatever the low limbs (R63): they read from 0 and below `2^W`. -/
theorem Value.val_lt_val_of_high_lt {signed : Bool} {w : Nat} {x y : Value w}
    (h : bval signed x.high < bval signed y.high) : x.val signed < y.val signed := by
  have hlow : (x.low.toNat : Int) < 2 ^ w := by exact_mod_cast x.low.isLt
  calc bval signed x.high * 2 ^ w + x.low.toNat
      < (bval signed x.high + 1) * 2 ^ w := by rw [add_one_mul]; exact Int.add_lt_add_left hlow _
    _ ≤ bval signed y.high * 2 ^ w := Int.mul_le_mul_of_nonneg_right h (by positivity)
    _ ≤ bval signed y.high * 2 ^ w + y.low.toNat := Int.le_add_of_nonneg_right (Int.natCast_nonneg _)

theorem Value.val_lt_val_iff_low_of_high_eq {signed : Bool} {w : Nat} {x y : Value w} (h : x.high = y.high) :
    x.val signed < y.val signed ↔ x.low.toNat < y.low.toNat := by
  rw [Value.val, Value.val, h, Int.add_lt_add_iff_left, Int.ofNat_lt]

end Sys2Proof

namespace Sys2Proof.Machine

/-! ### The helper relations of R60 -/

theorem eqLimbs_iff_val_eq (signed : Bool) {w : Nat} (x y : Value w) :
    eqLimbs x y = true ↔ x.val signed = y.val signed := by
  rw [(Value.val_injective signed w).eq_iff, Value.mk.injEq, eqLimbs, Bool.and_eq_true, beq_iff_eq, beq_iff_eq]

theorem ltLimbs_iff {signed : Bool} {w : Nat} {x y : Value w} :
    ltLimbs signed x y = true ↔
      bval signed x.high < bval signed y.high ∨ (x.high = y.high ∧ x.low.toNat < y.low.toNat) := by
  simp [ltLimbs, ltB, ltU]

/-- The law of the family (R67), by which of the high limbs is the smaller. -/
theorem ltLimbs_iff_val_lt (signed : Bool) {w : Nat} (x y : Value w) :
    ltLimbs signed x y = true ↔ x.val signed < y.val signed := by
  rw [ltLimbs_iff]
  obtain hlt | heq | hgt := lt_trichotomy (bval signed x.high) (bval signed y.high)
  · exact iff_of_true (.inl hlt) (Value.val_lt_val_of_high_lt hlt)
  · have hhigh : x.high = y.high := bval_injective signed w heq
    simp [Value.val_lt_val_iff_low_of_high_eq hhigh, hhigh]
  · have hne : x.high ≠ y.high := fun h => hgt.ne' (congrArg (bval signed) h)
    exact iff_of_false (fun h => h.elim hgt.not_gt fun htie => hne htie.1) (Value.val_lt_val_of_high_lt hgt).not_gt

theorem ltLimbs_or_eqLimbs_iff_val_le (signed : Bool) {w : Nat} (x y : Value w) :
    (ltLimbs signed x y || eqLimbs x y) = true ↔ x.val signed ≤ y.val signed := by
  rw [Bool.or_eq_true, ltLimbs_iff_val_lt, eqLimbs_iff_val_eq signed, le_iff_lt_or_eq]

theorem eqLimbs_comm {w : Nat} (x y : Value w) : eqLimbs x y = eqLimbs y x := by
  rw [eqLimbs, eqLimbs, BEq.comm, BEq.comm (a := x.low)]

/-! ### The answer of a comparison -/

/-- An operation with one result answers it while no trap is pending (30_encoding.md R51). -/
theorem State.perform_plain_eq_answered {s : State} (h : s.fault = false) (r : Value s.cfg.W) :
    s.perform (plain r) = s.answered r ⟨0, 0⟩ false := by
  rw [plain, State.perform_done h, State.complete_eq_answered h, Value.zero]

/-- A comparison answers the truth value of the relation it decides (R60). -/
theorem State.perform_truth_eq_answered {s : State} (h : s.fault = false) {q : Bool} {p : Prop} [Decidable p]
    (hq : q = true ↔ p) :
    s.perform (plain (Value.truth s.cfg.W q)) = s.answered (if p then ⟨0, 1⟩ else ⟨0, 0⟩) ⟨0, 0⟩ false := by
  rw [State.perform_plain_eq_answered h, Value.truth, if_congr hq rfl rfl]

/-! ### The obligations -/

/-- Settles O24: equal limbs are equal integers, and CMPNE answers the negation. -/
theorem equalityComparesTheIntegers : Obligations.EqualityComparesTheIntegers := by
  intro s a b hfault x y
  have heq : eqLimbs (s.operand a) (s.operand b) = true ↔ x = y := eqLimbs_iff_val_eq s.cfg.signed _ _
  have hne : (!eqLimbs (s.operand a) (s.operand b)) = true ↔ ¬ x = y := by
    rw [Bool.not_eq_true', ← Bool.not_eq_true, heq]
  refine ⟨rfl, rfl, congrArg _ (State.perform_truth_eq_answered hfault heq), ?_⟩
  rw [← ite_not]
  exact congrArg _ (State.perform_truth_eq_answered hfault hne)

/-- Settles O25: `lt` and `lt or eq` are `<` and `≤` of the integers, for the operands as they stand and exchanged. -/
theorem orderingComparesTheIntegers : Obligations.OrderingComparesTheIntegers := by
  intro s a b hfault x y
  have hge : (ltLimbs s.cfg.signed (s.operand b) (s.operand a) || eqLimbs (s.operand a) (s.operand b)) = true ↔ y ≤ x := by
    rw [eqLimbs_comm]
    exact ltLimbs_or_eqLimbs_iff_val_le _ _ _
  exact ⟨rfl, rfl, rfl, rfl,
    congrArg _ (State.perform_truth_eq_answered hfault (ltLimbs_iff_val_lt _ _ _)),
    congrArg _ (State.perform_truth_eq_answered hfault (ltLimbs_or_eqLimbs_iff_val_le _ _ _)),
    congrArg _ (State.perform_truth_eq_answered hfault (ltLimbs_iff_val_lt _ _ _)),
    congrArg _ (State.perform_truth_eq_answered hfault hge)⟩

end Sys2Proof.Machine
end

section
/-! ADD and SUB at every DEPTH (41_magnitude_addsub.md R70 to R78). The flag of a unit is read off the exact results of two
types: it is set exactly when the exact result `S` of the topmost primitive limbs is outside the primitive base, or the exact
result `T` of the operands is outside the unit's type. One level of R78 keeps that form, because the exact result of the high
limbs, whose overflow the lower level adds, has the topmost limb of `S` or the topmost limb of `T`. -/

namespace Sys2Proof

open Machine

/-! ### The ranges of R9, and overflow read off the topmost bits -/

theorem minOf_add (signed : Bool) {p : Nat} (hp : 0 < p) (k : Nat) :
    minOf signed (p + k) = minOf signed p * 2 ^ k := by
  cases signed with
  | false => simp [minOf]
  | true => simp [minOf, ← pow_add, Nat.sub_add_comm hp]

theorem maxOf_add (signed : Bool) {p : Nat} (hp : 0 < p) (k : Nat) :
    maxOf signed (p + k) + 1 = (maxOf signed p + 1) * 2 ^ k := by
  cases signed with
  | false => simp [maxOf, pow_add]
  | true => simp [maxOf, ← pow_add, Nat.sub_add_comm hp]

theorem minOf_le_maxOf (signed : Bool) (d : Nat) : minOf signed d ≤ maxOf signed d :=
  (minOf_le_bval signed 0).trans (bval_le_maxOf signed 0)

theorem trueOverflow_iff {signed : Bool} {d : Nat} {t : Int} :
    trueOverflow signed d t = true ↔ t < minOf signed d ∨ maxOf signed d < t :=
  decide_eq_true_iff

theorem trueOverflow_eq_false_iff {signed : Bool} {d : Nat} {t : Int} :
    trueOverflow signed d t = false ↔ minOf signed d ≤ t ∧ t ≤ maxOf signed d := by
  rw [trueOverflow, decide_eq_false_iff_not, not_or, not_lt, not_lt]

/-- An integer overflows a type exactly when its bits above the lowest `k` overflow the type that is `k` bits narrower. -/
theorem trueOverflow_add (signed : Bool) {p : Nat} (hp : 0 < p) (k : Nat) (t : Int) :
    trueOverflow signed (p + k) t = trueOverflow signed p (t / 2 ^ k) := by
  have hk : (0 : Int) < 2 ^ k := by positivity
  have hmin : t < minOf signed (p + k) ↔ t / 2 ^ k < minOf signed p := by
    rw [minOf_add signed hp, Int.ediv_lt_iff_lt_mul hk]
  have hmax : maxOf signed (p + k) < t ↔ maxOf signed p < t / 2 ^ k := by
    rw [← Int.add_one_le_iff, maxOf_add signed hp, ← Int.le_ediv_iff_mul_le hk, Int.add_one_le_iff]
  rw [Bool.eq_iff_iff, trueOverflow_iff, trueOverflow_iff, hmin, hmax]

/-! ### The primitive base's flag and its boundary values (R15) -/

theorem bval_bmin (signed : Bool) {w : Nat} (hw : 0 < w) : bval signed (bmin signed w) = minOf signed w :=
  bval_ofInt signed hw le_rfl (minOf_le_maxOf signed w)

theorem bval_bmax (signed : Bool) {w : Nat} (hw : 0 < w) : bval signed (bmax signed w) = maxOf signed w :=
  bval_ofInt signed hw (minOf_le_maxOf signed w) le_rfl

theorem narrowB_snd (signed : Bool) {w : Nat} (hw : 0 < w) (t : Int) :
    (narrowB signed w t).2 = trueOverflow signed w t := by
  rw [narrowB, bval_bmin signed hw, bval_bmax signed hw, Bool.eq_iff_iff, trueOverflow_iff]
  simp only [Bool.not_eq_true', decide_eq_false_iff_not]
  omega

theorem addB_snd (signed : Bool) {w : Nat} (hw : 0 < w) (x y : BitVec w) :
    (addB signed x y).2 = trueOverflow signed w (bval signed x + bval signed y) :=
  narrowB_snd signed hw _

theorem subB_snd (signed : Bool) {w : Nat} (hw : 0 < w) (x y : BitVec w) :
    (subB signed x y).2 = trueOverflow signed w (bval signed x - bval signed y) :=
  narrowB_snd signed hw _

/-- A result that is in range wraps to the pattern `v` exactly when it is what `v` reads. -/
theorem ofInt_eq_iff {signed : Bool} {w : Nat} (hw : 0 < w) {t : Int} (ht : trueOverflow signed w t = false)
    (v : BitVec w) : BitVec.ofInt w t = v ↔ t = bval signed v := by
  obtain ⟨hmin, hmax⟩ := trueOverflow_eq_false_iff.mp ht
  rw [← (bval_injective signed w).eq_iff, bval_ofInt signed hw hmin hmax]

theorem add_eq_bmax_iff {signed : Bool} {w : Nat} (hw : 0 < w) {x y : BitVec w}
    (ht : trueOverflow signed w (bval signed x + bval signed y) = false) :
    x + y = bmax signed w ↔ bval signed x + bval signed y = maxOf signed w := by
  rw [← bval_bmax signed hw, ← ofInt_eq_iff hw ht, BitVec.ofInt_add, ofInt_bval, ofInt_bval]

theorem sub_eq_bmin_iff {signed : Bool} {w : Nat} (hw : 0 < w) {x y : BitVec w}
    (ht : trueOverflow signed w (bval signed x - bval signed y) = false) :
    x - y = bmin signed w ↔ bval signed x - bval signed y = minOf signed w := by
  rw [← bval_bmin signed hw, ← ofInt_eq_iff hw ht, ofInt_sub, ofInt_bval, ofInt_bval]

/-! ### The limbs of a value, and the carry and the borrow into its topmost bits -/

theorem Value.val_ediv (signed : Bool) {w : Nat} (x : Value w) : x.val signed / 2 ^ w = bval signed x.high := by
  have hlow : (x.low.toNat : Int) < 2 ^ w := by exact_mod_cast x.low.isLt
  rw [Value.val, Int.mul_add_ediv_right _ _ (by positivity), Int.ediv_eq_zero_of_lt (Int.natCast_nonneg _) hlow,
    add_zero]

theorem Value.val_emod (signed : Bool) {w : Nat} (x : Value w) : x.val signed % 2 ^ w = x.low.toNat := by
  have hlow : (x.low.toNat : Int) < 2 ^ w := by exact_mod_cast x.low.isLt
  rw [Value.val, add_comm, Int.add_mul_emod_self_right, Int.emod_eq_of_lt (Int.natCast_nonneg _) hlow]

theorem Value.val_ediv_add (signed : Bool) {w : Nat} (x : Value w) (k : Nat) :
    x.val signed / 2 ^ (k + w) = bval signed x.high / 2 ^ k := by
  rw [← Value.val_ediv, Int.ediv_ediv_of_nonneg (by positivity), ← pow_add, add_comm]

/-- The unsigned reading is the reading modulo `2^D` (R11). -/
theorem Value.val_emod_two_pow (signed : Bool) {w : Nat} (x : Value w) : x.val signed % 2 ^ (2 * w) = x.unsigned := by
  rw [← Value.unsigned_pack, Value.pack_val]

theorem Value.unsigned_emod (signed : Bool) {w k : Nat} (hk : k ≤ 2 * w) (x : Value w) :
    ((x.unsigned % 2 ^ k : Nat) : Int) = x.val signed % 2 ^ k := by
  push_cast
  rw [← Value.val_emod_two_pow signed, Int.emod_emod_of_dvd _ (pow_dvd_pow 2 hk)]

theorem add_ediv_two_pow (x y : Int) (k : Nat) :
    (x + y) / 2 ^ k = x / 2 ^ k + y / 2 ^ k + if 2 ^ k ≤ x % 2 ^ k + y % 2 ^ k then 1 else 0 := by
  have hk : (0 : Int) < 2 ^ k := by positivity
  rw [Int.add_ediv hk.ne', Int.sign_eq_one_of_pos hk, Int.natAbs_of_nonneg hk.le]

theorem sub_ediv_two_pow (x y : Int) (k : Nat) :
    (x - y) / 2 ^ k = x / 2 ^ k - y / 2 ^ k - if x % 2 ^ k < y % 2 ^ k then 1 else 0 := by
  have hk : (0 : Int) < 2 ^ k := by positivity
  have hy := Int.emod_lt_of_pos y hk
  have hx := Int.emod_lt_of_pos x hk
  have hx0 := Int.emod_nonneg x hk.ne'
  have hy0 := Int.emod_nonneg y hk.ne'
  have hsplit : x - y = (x % 2 ^ k - y % 2 ^ k) + (x / 2 ^ k - y / 2 ^ k) * 2 ^ k := by
    linear_combination -Int.emod_add_mul_ediv x (2 ^ k) + Int.emod_add_mul_ediv y (2 ^ k)
  have hlow : (x % 2 ^ k - y % 2 ^ k) / 2 ^ k = -if x % 2 ^ k < y % 2 ^ k then 1 else 0 := by
    rw [Int.ediv_eq_iff_of_pos hk]
    split <;> omega
  rw [hsplit, Int.add_mul_ediv_right _ _ hk.ne', hlow]
  ring

theorem Value.val_add_ediv (signed : Bool) {w : Nat} (a b : Value w) :
    (a.val signed + b.val signed) / 2 ^ w = bval signed a.high + bval signed b.high +
      if 2 ^ w ≤ a.low.toNat + b.low.toNat then 1 else 0 := by
  rw [add_ediv_two_pow]
  simp only [Value.val_ediv, Value.val_emod]
  norm_cast

theorem Value.val_sub_ediv (signed : Bool) {w : Nat} (a b : Value w) :
    (a.val signed - b.val signed) / 2 ^ w = bval signed a.high - bval signed b.high -
      if a.low.toNat < b.low.toNat then 1 else 0 := by
  rw [sub_ediv_two_pow]
  simp only [Value.val_ediv, Value.val_emod, Nat.cast_lt]

/-! ### The limb rules over any base (R72, R74) -/

theorem addLimbs_snd_iff (signed : Bool) {w : Nat} {f : BitVec w → BitVec w → BitVec w × Bool}
    (hf : ∀ x y, (f x y).1 = x + y) (a b : Value w) :
    (addLimbs signed f a b).2 = true ↔ (f a.high b.high).2 = true ∨
      a.high + b.high = bmax signed w ∧ 2 ^ w ≤ a.low.toNat + b.low.toNat := by
  simp [addLimbs, addU, hf]

theorem subLimbs_snd_iff (signed : Bool) {w : Nat} {f : BitVec w → BitVec w → BitVec w × Bool}
    (hf : ∀ x y, (f x y).1 = x - y) (a b : Value w) :
    (subLimbs signed f a b).2 = true ↔ (f a.high b.high).2 = true ∨
      a.high - b.high = bmin signed w ∧ a.low.toNat < b.low.toNat := by
  simp [subLimbs, subU, hf]

/-- With the high limbs' exact sum in range, the boundary test with the carry says that the carry takes it out of range, that
is, that the whole exact sum overflows. -/
theorem add_boundary_iff (signed : Bool) {w : Nat} (hw : 0 < w) (a b : Value w) :
    trueOverflow signed w (bval signed a.high + bval signed b.high) = true ∨
        a.high + b.high = bmax signed w ∧ 2 ^ w ≤ a.low.toNat + b.low.toNat ↔
      trueOverflow signed w (bval signed a.high + bval signed b.high) = true ∨
        trueOverflow signed (w + w) (a.val signed + b.val signed) = true := by
  cases ho : trueOverflow signed w (bval signed a.high + bval signed b.high) with
  | true => simp
  | false =>
    obtain ⟨hmin, hmax⟩ := trueOverflow_eq_false_iff.mp ho
    rw [add_eq_bmax_iff hw ho, trueOverflow_add signed hw, Value.val_add_ediv, trueOverflow_iff]
    split <;> simp only [Bool.false_eq_true, false_or] <;> omega

theorem sub_boundary_iff (signed : Bool) {w : Nat} (hw : 0 < w) (a b : Value w) :
    trueOverflow signed w (bval signed a.high - bval signed b.high) = true ∨
        a.high - b.high = bmin signed w ∧ a.low.toNat < b.low.toNat ↔
      trueOverflow signed w (bval signed a.high - bval signed b.high) = true ∨
        trueOverflow signed (w + w) (a.val signed - b.val signed) = true := by
  cases ho : trueOverflow signed w (bval signed a.high - bval signed b.high) with
  | true => simp
  | false =>
    obtain ⟨hmin, hmax⟩ := trueOverflow_eq_false_iff.mp ho
    rw [sub_eq_bmin_iff hw ho, trueOverflow_add signed hw, Value.val_sub_ediv, trueOverflow_iff]
    split <;> simp only [Bool.false_eq_true, false_or] <;> omega

/-- One level of R78, for a base of `p + k` bits: `S`, `H` and `T` are the exact results of the topmost primitive limbs, of the
high limbs and of the operands. The overflow of `H` adds nothing, as its topmost `p` bits are `S` or those of `T`. -/
theorem overflow_of_high {signed : Bool} {p k : Nat} (hp : 0 < p) {S H T : Int}
    (h : H / 2 ^ k = S ∨ H / 2 ^ k = T / 2 ^ (k + (p + k))) (ho : trueOverflow signed (p + k) H = true) :
    trueOverflow signed p S = true ∨ trueOverflow signed (p + k + (p + k)) T = true := by
  rw [add_assoc, trueOverflow_add signed hp]
  rw [trueOverflow_add signed hp] at ho
  obtain h | h := h
  · exact .inl (h ▸ ho)
  · exact .inr (h ▸ ho)

theorem add_ediv_two_pow_cases (x y : Int) (k : Nat) :
    (x + y) / 2 ^ k = x / 2 ^ k + y / 2 ^ k ∨ (x + y) / 2 ^ k = x / 2 ^ k + y / 2 ^ k + 1 := by
  rw [add_ediv_two_pow]
  split <;> simp

theorem sub_ediv_two_pow_cases (x y : Int) (k : Nat) :
    (x - y) / 2 ^ k = x / 2 ^ k - y / 2 ^ k ∨ (x - y) / 2 ^ k = x / 2 ^ k - y / 2 ^ k - 1 := by
  rw [sub_ediv_two_pow]
  split <;> simp

/-- The carry into the topmost bits of the high limbs' sum is at most the carry into those of the whole sum. -/
theorem Value.high_add_ediv (signed : Bool) {w : Nat} (a b : Value w) (k : Nat) :
    (bval signed a.high + bval signed b.high) / 2 ^ k = bval signed a.high / 2 ^ k + bval signed b.high / 2 ^ k ∨
      (bval signed a.high + bval signed b.high) / 2 ^ k = (a.val signed + b.val signed) / 2 ^ (k + w) := by
  have hhigh := add_ediv_two_pow_cases (bval signed a.high) (bval signed b.high) k
  have hall := add_ediv_two_pow_cases (a.val signed) (b.val signed) (k + w)
  have hle : (bval signed a.high + bval signed b.high) / 2 ^ k ≤ (a.val signed + b.val signed) / 2 ^ w / 2 ^ k := by
    refine Int.ediv_le_ediv (by positivity) ?_
    rw [Value.val_add_ediv]
    split <;> omega
  rw [Int.ediv_ediv_of_nonneg (by positivity), ← pow_add, add_comm w k] at hle
  rw [Value.val_ediv_add, Value.val_ediv_add] at hall
  omega

/-- The borrow from the topmost bits of the high limbs' difference is at most the borrow from those of the whole one. -/
theorem Value.high_sub_ediv (signed : Bool) {w : Nat} (a b : Value w) (k : Nat) :
    (bval signed a.high - bval signed b.high) / 2 ^ k = bval signed a.high / 2 ^ k - bval signed b.high / 2 ^ k ∨
      (bval signed a.high - bval signed b.high) / 2 ^ k = (a.val signed - b.val signed) / 2 ^ (k + w) := by
  have hhigh := sub_ediv_two_pow_cases (bval signed a.high) (bval signed b.high) k
  have hall := sub_ediv_two_pow_cases (a.val signed) (b.val signed) (k + w)
  have hle : (a.val signed - b.val signed) / 2 ^ w / 2 ^ k ≤ (bval signed a.high - bval signed b.high) / 2 ^ k := by
    refine Int.ediv_le_ediv (by positivity) ?_
    rw [Value.val_sub_ediv]
    split <;> omega
  rw [Int.ediv_ediv_of_nonneg (by positivity), ← pow_add, add_comm w k] at hle
  rw [Value.val_ediv_add, Value.val_ediv_add] at hall
  omega

/-! ### The flags at every DEPTH (R78) -/

/-- A pattern reads as the pair of its halves does (R8). -/
theorem Value.val_split (signed : Bool) {w : Nat} (hw : w / 2 * 2 = w) (x : BitVec w) :
    (Value.split x).val signed = bval signed x := by
  have hbits : (Value.split x).bits.toNat = x.toNat := by rw [Value.bits_toNat, Value.unsigned_split hw]
  have hwidth : w / 2 + w / 2 = w := by omega
  rw [Value.val_eq_bval_bits, bval, bval, BitVec.toInt_eq_toNat_bmod, BitVec.toInt_eq_toNat_bmod, hbits, hwidth]

/-- One level of ADD keeps the form of the flag, over a base of `p + k` bits whose primitive limbs have `p` bits. -/
theorem addLimbs_flag {signed : Bool} {p k w : Nat} (hp : 0 < p) (hw : w = p + k)
    {f : BitVec w → BitVec w → BitVec w × Bool} (hf : ∀ x y, (f x y).1 = x + y)
    (hflag : ∀ x y, (f x y).2 = true ↔ trueOverflow signed p (bval signed x / 2 ^ k + bval signed y / 2 ^ k) = true ∨
      trueOverflow signed w (bval signed x + bval signed y) = true) (a b : Value w) :
    (addLimbs signed f a b).2 = true ↔
      trueOverflow signed p (a.val signed / 2 ^ (k + w) + b.val signed / 2 ^ (k + w)) = true ∨
        trueOverflow signed (w + w) (a.val signed + b.val signed) = true := by
  subst hw
  have hhigh := overflow_of_high (signed := signed) hp (Value.high_add_ediv signed a b k)
  rw [addLimbs_snd_iff signed hf, hflag, or_assoc, add_boundary_iff signed (Nat.add_pos_left hp k),
    Value.val_ediv_add, Value.val_ediv_add]
  tauto

theorem subLimbs_flag {signed : Bool} {p k w : Nat} (hp : 0 < p) (hw : w = p + k)
    {f : BitVec w → BitVec w → BitVec w × Bool} (hf : ∀ x y, (f x y).1 = x - y)
    (hflag : ∀ x y, (f x y).2 = true ↔ trueOverflow signed p (bval signed x / 2 ^ k - bval signed y / 2 ^ k) = true ∨
      trueOverflow signed w (bval signed x - bval signed y) = true) (a b : Value w) :
    (subLimbs signed f a b).2 = true ↔
      trueOverflow signed p (a.val signed / 2 ^ (k + w) - b.val signed / 2 ^ (k + w)) = true ∨
        trueOverflow signed (w + w) (a.val signed - b.val signed) = true := by
  subst hw
  have hhigh := overflow_of_high (signed := signed) hp (Value.high_sub_ediv signed a b k)
  rw [subLimbs_snd_iff signed hf, hflag, or_assoc, sub_boundary_iff signed (Nat.add_pos_left hp k),
    Value.val_ediv_add, Value.val_ediv_add]
  tauto

/-- The widths of a nested base: two halves, each nested one level less over the same primitive limbs. -/
theorem nested_widths {p n w k : Nat} (hn : w = p * 2 ^ (n + 1)) (hk : w = p + k) :
    w / 2 = p * 2 ^ n ∧ w / 2 * 2 = w ∧ ∃ j, w / 2 = p + j ∧ k = j + w / 2 := by
  have hhalf : w / 2 = p * 2 ^ n := by rw [hn, pow_succ, ← mul_assoc, Nat.mul_div_cancel _ two_pos]
  have htwice : w / 2 * 2 = w := by rw [hhalf, hn, pow_succ, mul_assoc]
  have hle : p ≤ w / 2 := hhalf ▸ Nat.le_mul_of_pos_right p (by positivity)
  exact ⟨hhalf, htwice, w / 2 - p, by omega, by omega⟩

theorem addBase_snd_iff {signed : Bool} {p : Nat} (hp : 0 < p) {n w k : Nat} (hn : w = p * 2 ^ n) (hk : w = p + k)
    (x y : BitVec w) :
    (addBase signed n w x y).2 = true ↔
      trueOverflow signed p (bval signed x / 2 ^ k + bval signed y / 2 ^ k) = true ∨
        trueOverflow signed w (bval signed x + bval signed y) = true := by
  induction n generalizing w k with
  | zero =>
    obtain rfl : k = 0 := by omega
    obtain rfl : w = p := by omega
    simp [addBase, addB_snd signed hp]
  | succ n ih =>
    obtain ⟨hhalf, htwice, j, hj, rfl⟩ := nested_widths hn hk
    have hfst := fun u v => addBase_fst signed n (w := w / 2) (hhalf ▸ dvd_mul_left _ _) u v
    rw [addBase_succ_snd, Value.add, addLimbs_flag hp hj hfst (ih hhalf hj), Value.val_split signed htwice,
      Value.val_split signed htwice, ← mul_two, htwice]

theorem subBase_snd_iff {signed : Bool} {p : Nat} (hp : 0 < p) {n w k : Nat} (hn : w = p * 2 ^ n) (hk : w = p + k)
    (x y : BitVec w) :
    (subBase signed n w x y).2 = true ↔
      trueOverflow signed p (bval signed x / 2 ^ k - bval signed y / 2 ^ k) = true ∨
        trueOverflow signed w (bval signed x - bval signed y) = true := by
  induction n generalizing w k with
  | zero =>
    obtain rfl : k = 0 := by omega
    obtain rfl : w = p := by omega
    simp [subBase, subB_snd signed hp]
  | succ n ih =>
    obtain ⟨hhalf, htwice, j, hj, rfl⟩ := nested_widths hn hk
    have hfst := fun u v => subBase_fst signed n (w := w / 2) (hhalf ▸ dvd_mul_left _ _) u v
    rw [subBase_succ_snd, Value.sub, subLimbs_flag hp hj hfst (ih hhalf hj), Value.val_split signed htwice,
      Value.val_split signed htwice, ← mul_two, htwice]

/-! ### ADD and SUB of a unit -/

theorem Config.primitiveBits_pos (c : Config) : 0 < c.primitiveBits := Nat.two_pow_pos _

theorem Config.W_eq_primitiveBits_mul (c : Config) : c.W = c.primitiveBits * 2 ^ c.nest := by
  rw [Config.W, Config.primitiveBits, pow_add]

theorem Config.primitiveBits_le_W (c : Config) : c.primitiveBits ≤ c.W :=
  c.W_eq_primitiveBits_mul ▸ Nat.le_mul_of_pos_right _ (by positivity)

/-- A value whose `D` bits are an integer modulo `2^D` is that integer packed (R13). -/
theorem Value.eq_pack_of_unsigned {w : Nat} {r : Value w} {t : Int} (h : (r.unsigned : Int) = t % 2 ^ (2 * w)) :
    r = Value.pack w t :=
  Value.eq_of_unsigned_eq (by exact_mod_cast h.trans (Value.unsigned_pack w t).symm)

theorem Value.add_unsigned (signed : Bool) {n w : Nat} (hw : 2 ^ n ∣ w) (a b : Value w) :
    (a.add signed n b).1.unsigned = (a.unsigned + b.unsigned) % 2 ^ (2 * w) :=
  addLimbs_unsigned signed (addBase_fst signed n hw) a b

theorem Value.sub_unsigned (signed : Bool) {n w : Nat} (hw : 2 ^ n ∣ w) (a b : Value w) :
    ((a.sub signed n b).1.unsigned : Int) = ((a.unsigned : Int) - b.unsigned) % 2 ^ (2 * w) :=
  subLimbs_unsigned signed (subBase_fst signed n hw) a b

theorem Value.add_fst (signed : Bool) {n w : Nat} (hw : 2 ^ n ∣ w) (a b : Value w) :
    (a.add signed n b).1 = Value.pack w (a.val signed + b.val signed) :=
  Value.eq_pack_of_unsigned (by
    rw [Value.add_unsigned signed hw, Int.add_emod, Value.val_emod_two_pow, Value.val_emod_two_pow]
    norm_cast)

theorem Value.sub_fst (signed : Bool) {n w : Nat} (hw : 2 ^ n ∣ w) (a b : Value w) :
    (a.sub signed n b).1 = Value.pack w (a.val signed - b.val signed) :=
  Value.eq_pack_of_unsigned (by
    rw [Value.sub_unsigned signed hw, Int.sub_emod (a.val signed), Value.val_emod_two_pow, Value.val_emod_two_pow])

/-- ADD's flag: the exact sum of the topmost primitive limbs overflows the primitive base, or that of the operands the unit. -/
theorem Value.add_snd_iff (signed : Bool) {p n w k : Nat} (hp : 0 < p) (hn : w = p * 2 ^ n) (hk : 2 * w = p + k)
    (a b : Value w) :
    (a.add signed n b).2 = true ↔ trueOverflow signed p (a.val signed / 2 ^ k + b.val signed / 2 ^ k) = true ∨
      trueOverflow signed (2 * w) (a.val signed + b.val signed) = true := by
  have hle : p ≤ w := hn ▸ Nat.le_mul_of_pos_right p (by positivity)
  obtain ⟨j, rfl⟩ := Nat.exists_eq_add_of_le hle
  obtain rfl : k = j + (p + j) := by omega
  rw [two_mul]
  exact addLimbs_flag hp rfl (addBase_fst signed n (hn ▸ dvd_mul_left _ _)) (addBase_snd_iff hp hn rfl) a b

theorem Value.sub_snd_iff (signed : Bool) {p n w k : Nat} (hp : 0 < p) (hn : w = p * 2 ^ n) (hk : 2 * w = p + k)
    (a b : Value w) :
    (a.sub signed n b).2 = true ↔ trueOverflow signed p (a.val signed / 2 ^ k - b.val signed / 2 ^ k) = true ∨
      trueOverflow signed (2 * w) (a.val signed - b.val signed) = true := by
  have hle : p ≤ w := hn ▸ Nat.le_mul_of_pos_right p (by positivity)
  obtain ⟨j, rfl⟩ := Nat.exists_eq_add_of_le hle
  obtain rfl : k = j + (p + j) := by omega
  rw [two_mul]
  exact subLimbs_flag hp rfl (subBase_fst signed n (hn ▸ dvd_mul_left _ _)) (subBase_snd_iff hp hn rfl) a b

end Sys2Proof
end

section
/-! What ADD, SUB and their trapping forms answer (41_magnitude_addsub.md R70, R72 to R78): where the flag differs from the
overflow of the exact result, the false alarms, and the nested base's flag as that of the unit one level lower. -/

namespace Sys2Proof

open Machine

/-! ### The false alarms (R77) -/

/-- The topmost primitive limb of an operand is a value of the primitive base. -/
theorem Value.val_ediv_range (signed : Bool) {p k w : Nat} (hp : 0 < p) (hk : 2 * w = p + k) (x : Value w) :
    minOf signed p ≤ x.val signed / 2 ^ k ∧ x.val signed / 2 ^ k ≤ maxOf signed p := by
  rw [← trueOverflow_eq_false_iff, ← trueOverflow_add signed hp, ← hk]
  exact trueOverflow_eq_false_iff.mpr ⟨x.minOf_le_val signed, x.val_le_maxOf signed⟩

theorem nestedAddFalseAlarm_iff {signed : Bool} {p k w : Nat} (hk : 2 * w = p + k) (a b : Value w) :
    nestedAddFalseAlarm signed p a b = true ↔ signed = true ∧
      a.val signed / 2 ^ k + b.val signed / 2 ^ k = -2 ^ (p - 1) - 1 ∧
      2 ^ k ≤ a.val signed % 2 ^ k + b.val signed % 2 ^ k := by
  have hbelow : 2 * w - p = k := by omega
  have hle : k ≤ 2 * w := by omega
  rw [← Value.unsigned_emod signed hle, ← Value.unsigned_emod signed hle, nestedAddFalseAlarm, hbelow]
  simp only [Bool.and_eq_true, decide_eq_true_eq, and_assoc]
  norm_cast

theorem nestedSubFalseAlarm_iff {signed : Bool} {p k w : Nat} (hk : 2 * w = p + k) (a b : Value w) :
    nestedSubFalseAlarm signed p a b = true ↔ signed = true ∧
      a.val signed / 2 ^ k - b.val signed / 2 ^ k = 2 ^ (p - 1) ∧
      a.val signed % 2 ^ k < b.val signed % 2 ^ k := by
  have hbelow : 2 * w - p = k := by omega
  have hle : k ≤ 2 * w := by omega
  rw [← Value.unsigned_emod signed hle, ← Value.unsigned_emod signed hle, nestedSubFalseAlarm, hbelow]
  simp only [Bool.and_eq_true, decide_eq_true_eq, and_assoc, Nat.cast_lt]

/-- The topmost limbs' own overflow is that of the whole sum, unless the carry from below brings a signed sum that is just below
the range back into it: the false alarm. -/
theorem add_overflow_or_iff (signed : Bool) {p k w : Nat} (hp : 0 < p) (hk : 2 * w = p + k) (a b : Value w) :
    trueOverflow signed p (a.val signed / 2 ^ k + b.val signed / 2 ^ k) = true ∨
        trueOverflow signed (2 * w) (a.val signed + b.val signed) = true ↔
      trueOverflow signed (2 * w) (a.val signed + b.val signed) = true ∨ nestedAddFalseAlarm signed p a b = true := by
  obtain ⟨ha, -⟩ := a.val_ediv_range signed hp hk
  obtain ⟨hb, -⟩ := b.val_ediv_range signed hp hk
  rw [nestedAddFalseAlarm_iff hk, hk, trueOverflow_add signed hp, add_ediv_two_pow, trueOverflow_iff, trueOverflow_iff]
  cases signed with
  | false =>
    simp only [minOf, maxOf, Bool.false_eq_true, if_false, false_and, or_false] at *
    split <;> omega
  | true =>
    have hpos : (0 : Int) < 2 ^ (p - 1) := by positivity
    simp only [minOf, maxOf, if_true, true_and] at *
    split <;> omega

theorem sub_overflow_or_iff (signed : Bool) {p k w : Nat} (hp : 0 < p) (hk : 2 * w = p + k) (a b : Value w) :
    trueOverflow signed p (a.val signed / 2 ^ k - b.val signed / 2 ^ k) = true ∨
        trueOverflow signed (2 * w) (a.val signed - b.val signed) = true ↔
      trueOverflow signed (2 * w) (a.val signed - b.val signed) = true ∨ nestedSubFalseAlarm signed p a b = true := by
  obtain ⟨-, ha⟩ := a.val_ediv_range signed hp hk
  obtain ⟨hb, -⟩ := b.val_ediv_range signed hp hk
  rw [nestedSubFalseAlarm_iff hk, hk, trueOverflow_add signed hp, sub_ediv_two_pow, trueOverflow_iff, trueOverflow_iff]
  cases signed with
  | false =>
    simp only [minOf, maxOf, Bool.false_eq_true, if_false, false_and, or_false] at *
    split <;> omega
  | true =>
    have hpos : (0 : Int) < 2 ^ (p - 1) := by positivity
    simp only [minOf, maxOf, if_true, true_and] at *
    split <;> omega

/-- At DEPTH 1 the topmost primitive limb is the high limb. -/
theorem nestedAddFalseAlarm_width (signed : Bool) {w : Nat} (a b : Value w) :
    nestedAddFalseAlarm signed w a b = addFalseAlarm signed a b := by
  cases signed with
  | false => rfl
  | true =>
    rw [Bool.eq_iff_iff, nestedAddFalseAlarm_iff (two_mul w), addFalseAlarm]
    simp only [Value.val_ediv, Value.val_emod, Bool.and_eq_true, decide_eq_true_eq, and_assoc]
    norm_cast

theorem nestedSubFalseAlarm_width (signed : Bool) {w : Nat} (a b : Value w) :
    nestedSubFalseAlarm signed w a b = subFalseAlarm signed a b := by
  cases signed with
  | false => rfl
  | true =>
    rw [Bool.eq_iff_iff, nestedSubFalseAlarm_iff (two_mul w), subFalseAlarm]
    simp only [Value.val_ediv, Value.val_emod, Bool.and_eq_true, decide_eq_true_eq, and_assoc, Nat.cast_lt]
    rfl

/-! ### A unit of a configuration -/

theorem Config.two_mul_W_eq (c : Config) : 2 * c.W = c.primitiveBits + (2 * c.W - c.primitiveBits) :=
  (Nat.add_sub_cancel' (by have := c.primitiveBits_le_W; omega)).symm

theorem Config.primitiveBits_of_DEPTH {c : Config} (h : c.DEPTH = 1) : c.primitiveBits = c.W := by
  have hnest : c.nest = 0 := Nat.succ.inj h
  rw [c.W_eq_primitiveBits_mul, hnest, pow_zero, mul_one]

/-- ADD's flag at every DEPTH: the overflow of the exact sum, or the false alarm of the topmost primitive limb (R77, R78). -/
theorem Value.add_snd (c : Config) (a b : Value c.W) :
    (a.add c.signed c.nest b).2 =
      (trueOverflow c.signed c.D (a.val c.signed + b.val c.signed) || nestedAddFalseAlarm c.signed c.primitiveBits a b) := by
  rw [Bool.eq_iff_iff, Bool.or_eq_true, Config.D, ← add_overflow_or_iff _ c.primitiveBits_pos c.two_mul_W_eq]
  exact Value.add_snd_iff _ c.primitiveBits_pos c.W_eq_primitiveBits_mul c.two_mul_W_eq a b

theorem Value.sub_snd (c : Config) (a b : Value c.W) :
    (a.sub c.signed c.nest b).2 =
      (trueOverflow c.signed c.D (a.val c.signed - b.val c.signed) || nestedSubFalseAlarm c.signed c.primitiveBits a b) := by
  rw [Bool.eq_iff_iff, Bool.or_eq_true, Config.D, ← sub_overflow_or_iff _ c.primitiveBits_pos c.two_mul_W_eq]
  exact Value.sub_snd_iff _ c.primitiveBits_pos c.W_eq_primitiveBits_mul c.two_mul_W_eq a b

theorem nestedAddFalseAlarm_eq {c : Config} (h : c.signed = false ∨ c.DEPTH = 1) (a b : Value c.W) :
    nestedAddFalseAlarm c.signed c.primitiveBits a b = addFalseAlarm c.signed a b := by
  obtain h | h := h
  · rw [h]
    rfl
  · rw [Config.primitiveBits_of_DEPTH h, nestedAddFalseAlarm_width]

theorem nestedSubFalseAlarm_eq {c : Config} (h : c.signed = false ∨ c.DEPTH = 1) (a b : Value c.W) :
    nestedSubFalseAlarm c.signed c.primitiveBits a b = subFalseAlarm c.signed a b := by
  obtain h | h := h
  · rw [h]
    rfl
  · rw [Config.primitiveBits_of_DEPTH h, nestedSubFalseAlarm_width]

/-- An exact result inside the unit's range is what its packing reads (R13, R77). -/
theorem Config.val_pack_of_inRange {c : Config} {t : Int} (h : trueOverflow c.signed c.D t = false) :
    (Value.pack c.W t).val c.signed = t := by
  obtain ⟨hmin, hmax⟩ := trueOverflow_eq_false_iff.mp h
  exact Value.val_pack c.signed c.W_pos hmin hmax

/-- Over a primitive base the limb rule of ADD is a rule on the exact sum of the high limbs (R72). -/
theorem Value.add_zero_snd_iff (signed : Bool) {w : Nat} (hw : 0 < w) (a b : Value w) :
    let h := bval signed a.high + bval signed b.high
    (a.add signed 0 b).2 = true ↔ (h < minOf signed w ∨ maxOf signed w < h) ∨
      (h = maxOf signed w ∧ 2 ^ w ≤ a.low.toNat + b.low.toNat) := by
  intro h
  rw [Value.add, addLimbs_snd_iff signed (f := addBase signed 0 w) (addB_fst signed), addBase, addB_snd signed hw,
    ← trueOverflow_iff]
  refine or_congr_right' fun hin => ?_
  rw [add_eq_bmax_iff hw (Bool.eq_false_of_not_eq_true hin)]

theorem Value.sub_zero_snd_iff (signed : Bool) {w : Nat} (hw : 0 < w) (a b : Value w) :
    let h := bval signed a.high - bval signed b.high
    (a.sub signed 0 b).2 = true ↔ (h < minOf signed w ∨ maxOf signed w < h) ∨
      (h = minOf signed w ∧ a.low.toNat < b.low.toNat) := by
  intro h
  rw [Value.sub, subLimbs_snd_iff signed (f := subBase signed 0 w) (subB_fst signed), subBase, subB_snd signed hw,
    ← trueOverflow_iff]
  refine or_congr_right' fun hin => ?_
  rw [sub_eq_bmin_iff hw (Bool.eq_false_of_not_eq_true hin)]

/-- Subtraction undoes addition modulo `2^D` (R76). -/
theorem Value.sub_add_cancel (signed : Bool) {n w : Nat} (hw : 2 ^ n ∣ w) (a b : Value w) :
    ((a.add signed n b).1.sub signed n b).1 = a := by
  apply Value.eq_of_unsigned_eq
  zify
  rw [Value.sub_unsigned signed hw, Value.add_unsigned signed hw]
  push_cast
  rw [Int.emod_sub_emod, add_sub_cancel_right]
  exact_mod_cast Nat.mod_eq_of_lt a.unsigned_lt

/-! ### The base as the unit one level lower (R8) -/

/-- The base of a nested unit is a unit of one level less, whose own base is half as wide. -/
theorem Config.W_lower {c : Config} {k : Nat} (h : c.nest = k + 1) : ({ c with nest := k } : Config).W = c.W / 2 := by
  simp [Config.W, h, ← add_assoc, pow_succ]

theorem Config.half_W {c : Config} {k : Nat} (h : c.nest = k + 1) : c.W / 2 * 2 = c.W := by
  simp [Config.W, h, ← add_assoc, pow_succ]

theorem Config.D_lower {c : Config} {k : Nat} (h : c.nest = k + 1) : ({ c with nest := k } : Config).D = c.W := by
  rw [Config.D, Config.W_lower h, mul_comm, Config.half_W h]

theorem Value.bval_join (signed : Bool) {w : Nat} (hw : w / 2 * 2 = w) (x : Value (w / 2)) :
    bval signed (Value.join w x) = x.val signed := by
  have hsplit : Value.split (Value.join w x) = x := by
    have hlt := x.unsigned_lt
    rw [mul_comm, hw] at hlt
    rw [Value.split, Value.join, BitVec.toNat_ofNat, Nat.mod_eq_of_lt hlt, Value.packu_unsigned]
  rw [← Value.val_split signed hw, hsplit]

/-- A pattern put on a port of the lower unit as the pair of its halves. -/
theorem Value.ofPair_halves (v n : Nat) : Value.ofPair v ⟨n / 2 ^ v, n % 2 ^ v⟩ = Value.packu v n := by
  rw [Value.ofPair, Value.packu, Value.mk.injEq, BitVec.toNat_eq (y := BitVec.ofNat v n)]
  simp

theorem addBase_succ_of_half (signed : Bool) (n : Nat) {v w : Nat} (hv : v = w / 2) (hw : w / 2 * 2 = w)
    (hn : 2 ^ (n + 1) ∣ w) (x y : BitVec w) :
    let lower := (Value.packu v x.toNat).add signed n (Value.packu v y.toNat)
    bval signed (x + y) = lower.1.val signed ∧ (addBase signed (n + 1) w x y).2 = lower.2 := by
  subst hv
  rw [← addBase_fst signed (n + 1) hn]
  exact ⟨Value.bval_join signed hw _, rfl⟩

theorem subBase_succ_of_half (signed : Bool) (n : Nat) {v w : Nat} (hv : v = w / 2) (hw : w / 2 * 2 = w)
    (hn : 2 ^ (n + 1) ∣ w) (x y : BitVec w) :
    let lower := (Value.packu v x.toNat).sub signed n (Value.packu v y.toNat)
    bval signed (x - y) = lower.1.val signed ∧ (subBase signed (n + 1) w x y).2 = lower.2 := by
  subst hv
  rw [← subBase_fst signed (n + 1) hn]
  exact ⟨Value.bval_join signed hw _, rfl⟩

end Sys2Proof

namespace Sys2Proof.Machine

/-! ### The two forms of an operation (R70) -/

theorem State.perform_reporting {s : State} (h : s.fault = false) (x : Value s.cfg.W × Bool) :
    s.perform (reporting x) = s.answered x.1 ⟨0, 0⟩ x.2 := by
  rw [reporting, State.perform_done h, State.complete_eq_answered h, Value.zero]

theorem State.perform_trapping_of_unflagged {s : State} (h : s.fault = false) {x : Value s.cfg.W × Bool}
    (hx : x.2 = false) : s.perform (trapping x) = s.answered x.1 ⟨0, 0⟩ false := by
  rw [trapping, hx]
  exact State.perform_plain_eq_answered h x.1

theorem State.perform_trapping_of_flagged {s : State} (h : s.fault = false) {x : Value s.cfg.W × Bool}
    (hx : x.2 = true) : s.perform (trapping x) = s.trapped 1 := by
  rw [trapping, hx]
  exact (State.perform_trap h .overflow).trans (s.trapEntry_eq_trapped .overflow)

theorem exec_add {s : State} (h : s.fault = false) (a b : Pair) :
    let x := (s.operand a).add s.cfg.signed s.cfg.nest (s.operand b)
    exec (.add a b) s = .next (s.answered x.1 ⟨0, 0⟩ x.2) :=
  congrArg _ (State.perform_reporting h _)

theorem exec_sub {s : State} (h : s.fault = false) (a b : Pair) :
    let x := (s.operand a).sub s.cfg.signed s.cfg.nest (s.operand b)
    exec (.sub a b) s = .next (s.answered x.1 ⟨0, 0⟩ x.2) :=
  congrArg _ (State.perform_reporting h _)

/-- A result put back on the operand port reads as itself. -/
theorem exec_sub_toPair {s : State} (h : s.fault = false) (r : Value s.cfg.W) (b : Pair) :
    let x := r.sub s.cfg.signed s.cfg.nest (s.operand b)
    exec (.sub r.toPair b) s = .next (s.answered x.1 ⟨0, 0⟩ x.2) := by
  have hsub := exec_sub h r.toPair b
  rwa [State.operand, Value.ofPair_toPair] at hsub

/-! ### The obligations -/

/-- Settles O31: both forms compute one value and flag. -/
theorem trappingAddFollowsReportingAdd : Obligations.TrappingAddFollowsReportingAdd := fun _ a b hfault =>
  ⟨rfl, _, _, exec_add hfault a b, fun ho => congrArg _ (State.perform_trapping_of_unflagged hfault ho),
    fun ho => congrArg _ (State.perform_trapping_of_flagged hfault ho)⟩

/-- Settles O32: both forms compute one value and flag. -/
theorem trappingSubFollowsReportingSub : Obligations.TrappingSubFollowsReportingSub := fun _ a b hfault =>
  ⟨rfl, _, _, exec_sub hfault a b, fun ho => congrArg _ (State.perform_trapping_of_unflagged hfault ho),
    fun ho => congrArg _ (State.perform_trapping_of_flagged hfault ho)⟩

/-- Settles O27: the wrapped sum, with the primitive base's rule for the flag at DEPTH 1. -/
theorem addFollowsTheLimbRule : Obligations.AddFollowsTheLimbRule := by
  intro s a b hfault x y sg h
  refine ⟨rfl, _, _, exec_add hfault a b, Value.add_unsigned sg s.cfg.two_pow_nest_dvd_W x y, fun hdepth => ?_⟩
  rw [Nat.succ.inj hdepth]
  exact Value.add_zero_snd_iff sg s.cfg.W_pos x y

/-- Settles O28: the wrapped difference, with the primitive base's rule for the flag at DEPTH 1. -/
theorem subFollowsTheLimbRule : Obligations.SubFollowsTheLimbRule := by
  intro s a b hfault x y sg h
  refine ⟨rfl, _, _, exec_sub hfault a b, Value.sub_unsigned sg s.cfg.two_pow_nest_dvd_W x y, fun hdepth => ?_⟩
  rw [Nat.succ.inj hdepth]
  exact Value.sub_zero_snd_iff sg s.cfg.W_pos x y

/-- Settles O29: the flag is `Value.add_snd`, whose false alarm is R77's in an unsigned unit and at DEPTH 1; the answer is the
packed exact sum. -/
theorem addFlagAgainstTrueOverflow : Obligations.AddFlagAgainstTrueOverflow := by
  intro s a b hfault x y sg t
  have hflag := Value.add_snd s.cfg x y
  refine ⟨_, _, exec_add hfault a b, fun hflat => ?_, hflag, fun hno => ?_⟩
  · rw [← nestedAddFalseAlarm_eq hflat]
    exact hflag
  · rw [Value.add_fst sg s.cfg.two_pow_nest_dvd_W]
    exact Config.val_pack_of_inRange hno

/-- Settles O30: the flag is `Value.sub_snd`, whose false alarm is R77's in an unsigned unit and at DEPTH 1; the answer is the
packed exact difference. -/
theorem subFlagAgainstTrueOverflow : Obligations.SubFlagAgainstTrueOverflow := by
  intro s a b hfault x y sg t
  have hflag := Value.sub_snd s.cfg x y
  refine ⟨_, _, exec_sub hfault a b, fun hflat => ?_, hflag, fun hno => ?_⟩
  · rw [← nestedSubFalseAlarm_eq hflat]
    exact hflag
  · rw [Value.sub_fst sg s.cfg.two_pow_nest_dvd_W]
    exact Config.val_pack_of_inRange hno

/-- Settles O34: the trapping forms take the packed exact result and the flag of O29 and O30. -/
theorem trappingAddAndSubComplete : Obligations.TrappingAddAndSubComplete := by
  intro s a b hfault x y sg fa fs
  have hadd := Value.add_snd s.cfg x y
  have hsub := Value.sub_snd s.cfg x y
  rw [← Value.add_fst sg s.cfg.two_pow_nest_dvd_W, ← Value.sub_fst sg s.cfg.two_pow_nest_dvd_W]
  exact ⟨fun h => congrArg _ (State.perform_trapping_of_unflagged hfault (hadd.trans h)),
    fun h => congrArg _ (State.perform_trapping_of_flagged hfault (hadd.trans h)),
    fun h => congrArg _ (State.perform_trapping_of_unflagged hfault (hsub.trans h)),
    fun h => congrArg _ (State.perform_trapping_of_flagged hfault (hsub.trans h))⟩

/-- Settles O35: SUB of ADD's answer wraps back to the first operand. -/
theorem addThenSubRestores : Obligations.AddThenSubRestores := by
  intro s a b hfault
  have hsub := exec_sub_toPair hfault ((s.operand a).add s.cfg.signed s.cfg.nest (s.operand b)).1 b
  simp only [Value.sub_add_cancel _ s.cfg.two_pow_nest_dvd_W] at hsub
  exact ⟨_, _, _, exec_add hfault a b, hsub⟩

/-- Settles O60: the base of the outer unit computes with the lower unit's ADD and SUB of the same halves. -/
theorem nestedFlagIsTheLowerUnitsFlag : Obligations.NestedFlagIsTheLowerUnitsFlag := by
  intro s a b k hfault hnest x y sg lower v xh yh
  have hlower : v = s.cfg.W / 2 := Config.W_lower hnest
  have hhalf := Config.half_W hnest
  have hdvd := s.cfg.two_pow_nest_dvd_W
  have hpos := s.cfg.W_pos
  have hx : lower.operand xh = Value.packu v x.high.toNat := Value.ofPair_halves v _
  have hy : lower.operand yh = Value.packu v y.high.toNat := Value.ofPair_halves v _
  refine ⟨Config.D_lower hnest, ?_, ?_⟩
  · refine ⟨_, _, _, _, exec_add hfault a b, exec_add (State.resetOf_fault _) xh yh,
      Value.add_unsigned sg hdvd x y, ?_⟩
    rw [hnest] at hdvd ⊢
    obtain ⟨hval, hflag⟩ := addBase_succ_of_half sg k hlower hhalf hdvd x.high y.high
    rw [hx, hy, Value.add, addLimbs_snd_iff sg (addBase_fst sg (k + 1) hdvd), hflag,
      ← (bval_injective sg _).eq_iff, bval_bmax sg hpos, hval]
    rfl
  · refine ⟨_, _, _, _, exec_sub hfault a b, exec_sub (State.resetOf_fault _) xh yh,
      Value.sub_unsigned sg hdvd x y, ?_⟩
    rw [hnest] at hdvd ⊢
    obtain ⟨hval, hflag⟩ := subBase_succ_of_half sg k hlower hhalf hdvd x.high y.high
    rw [hx, hy, Value.sub, subLimbs_snd_iff sg (subBase_fst sg (k + 1) hdvd), hflag,
      ← (bval_injective sg _).eq_iff, bval_bmin sg hpos, hval]
    rfl

end Sys2Proof.Machine
end

section
/-! Sign and magnitude (41_magnitude_addsub.md R71), and the multiplier's product and flag read off them (42_multiply.md R80 to
R86): the magnitudes' product is the absolute value of the operands' product, so the `4W` bits are the exact product modulo
`2^(4W)`, and the flag is a condition on it. -/

namespace Sys2Proof

open Machine

/-! ### The sign of a pattern and of a value (R12) -/

theorem bval_neg_iff {signed : Bool} {d : Nat} {x : BitVec d} : bval signed x < 0 ↔ signed = true ∧ x.msb = true := by
  cases signed with
  | false => simp [bval]
  | true => simp [bval, BitVec.msb_eq_toInt]

theorem bval_of_nonneg {signed : Bool} {d : Nat} {x : BitVec d} (h : 0 ≤ bval signed x) : bval signed x = x.toNat := by
  cases signed with
  | false => rfl
  | true => exact BitVec.toInt_eq_toNat_of_msb (by rw [BitVec.msb_eq_toInt]; exact decide_eq_false h.not_gt)

theorem bval_of_neg {signed : Bool} {d : Nat} {x : BitVec d} (h : bval signed x < 0) :
    bval signed x = x.toNat - 2 ^ d ∧ 0 < x.toNat := by
  obtain ⟨rfl, hmsb⟩ := bval_neg_iff.mp h
  have hval : x.toInt = x.toNat - 2 ^ d := by simp [BitVec.toInt_eq_msb_cond, hmsb]
  have hhalf := BitVec.toInt_neg_iff.mp h
  exact ⟨hval, by have := Nat.two_pow_pos d; omega⟩

theorem Value.val_of_nonneg {signed : Bool} {w : Nat} {x : Value w} (h : 0 ≤ x.val signed) :
    x.val signed = x.unsigned := by
  rw [Value.val_eq_bval_bits] at h ⊢
  rw [bval_of_nonneg h, Value.bits_toNat]

theorem Value.val_of_neg {signed : Bool} {w : Nat} {x : Value w} (h : x.val signed < 0) :
    x.val signed = x.unsigned - 2 ^ (2 * w) ∧ 0 < x.unsigned := by
  rw [Value.val_eq_bval_bits] at h ⊢
  rw [two_mul, ← Value.bits_toNat]
  exact bval_of_neg h

theorem Value.isneg_eq (signed : Bool) {w : Nat} (x : Value w) : x.isneg signed = decide (x.val signed < 0) := by
  have hhigh : x.val signed < 0 ↔ bval signed x.high < 0 := by
    rw [← Value.val_ediv, Int.ediv_lt_iff_lt_mul (by positivity), zero_mul]
  rw [Bool.eq_iff_iff, decide_eq_true_iff, hhigh, bval_neg_iff, Value.isneg, Bool.and_eq_true]

/-! ### The magnitude (R71) -/

theorem Value.unsigned_not {w : Nat} (x : Value w) :
    (⟨~~~x.high, ~~~x.low⟩ : Value w).unsigned + x.unsigned + 1 = 2 ^ (2 * w) := by
  have hnot : (⟨~~~x.high, ~~~x.low⟩ : Value w).bits = ~~~x.bits := BitVec.not_append.symm
  have hlt := x.unsigned_lt
  rw [← Value.bits_toNat, hnot, BitVec.toNat_not, Value.bits_toNat, ← two_mul]
  omega

/-- The magnitude of a negative value is its complement plus one, the addition of R72 on the limbs. -/
theorem Value.mag_of_neg {signed : Bool} {w : Nat} {x : Value w} (h : x.val signed < 0) :
    x.mag signed = (addLimbs signed (fun u v => (u + v, false)) ⟨~~~x.high, ~~~x.low⟩ ⟨0, 1⟩).1 := by
  simp [Value.mag, Value.isneg_eq, h, addLimbs]

theorem Value.mag_of_nonneg {signed : Bool} {w : Nat} {x : Value w} (h : 0 ≤ x.val signed) : x.mag signed = x := by
  simp [Value.mag, Value.isneg_eq, h]

theorem Value.unsigned_one {w : Nat} (hw : 0 < w) : (⟨0, 1⟩ : Value w).unsigned = 1 := by
  simp [Value.unsigned, BitVec.toNat_ofNat, Nat.one_mod_two_pow_eq_one.mpr hw]

/-- The law of R71, the minimum of a signed unit included. -/
theorem Value.unsigned_mag (signed : Bool) {w : Nat} (x : Value w) :
    ((x.mag signed).unsigned : Int) = |x.val signed| := by
  rcases lt_or_ge (x.val signed) 0 with hneg | hnonneg
  · obtain ⟨hval, hpos⟩ := Value.val_of_neg hneg
    have hnot := x.unsigned_not
    have hw : 0 < w := Nat.pos_of_ne_zero fun h => by subst h; exact absurd x.unsigned_lt (by simpa using hpos.ne')
    rw [Value.mag_of_neg hneg, addLimbs_unsigned signed (fun _ _ => rfl), Value.unsigned_one hw,
      Nat.mod_eq_of_lt (by omega), abs_of_neg hneg, hval]
    zify at hnot
    push_cast
    omega
  · rw [Value.mag_of_nonneg hnonneg, abs_of_nonneg hnonneg, Value.val_of_nonneg hnonneg]

end Sys2Proof

namespace Sys2Proof.Machine

/-! ### The product (R80, R81) -/

theorem negx_eq_true_iff {signed : Bool} {w : Nat} {a b : Value w} :
    negx signed a b = true ↔ ¬(a.val signed < 0 ↔ b.val signed < 0) := by
  rw [negx, Value.isneg_eq, Value.isneg_eq, bne_iff_ne, ne_eq, decide_eq_decide]

theorem mul_nonpos_of_negx {signed : Bool} {w : Nat} {a b : Value w} (h : negx signed a b = true) :
    a.val signed * b.val signed ≤ 0 := by
  rw [negx_eq_true_iff] at h
  rcases lt_or_ge (a.val signed) 0 with ha | ha
  · exact mul_nonpos_of_nonpos_of_nonneg ha.le (by omega)
  · exact mul_nonpos_of_nonneg_of_nonpos ha (by omega)

theorem mul_nonneg_of_not_negx {signed : Bool} {w : Nat} {a b : Value w} (h : negx signed a b = false) :
    0 ≤ a.val signed * b.val signed := by
  rw [← Bool.not_eq_true, negx_eq_true_iff, not_not] at h
  rcases lt_or_ge (a.val signed) 0 with ha | ha
  · exact mul_nonneg_of_nonpos_of_nonpos ha.le (h.mp ha).le
  · exact mul_nonneg ha (by omega)

/-- The product is smaller than `2^(4W)`, as the magnitudes are smaller than `2^D`. -/
theorem abs_mul_val_lt (signed : Bool) {w : Nat} (a b : Value w) :
    |a.val signed * b.val signed| < 2 ^ (2 * w) * 2 ^ (2 * w) := by
  rw [abs_mul, ← Value.unsigned_mag, ← Value.unsigned_mag]
  exact_mod_cast Nat.mul_lt_mul'' (Value.unsigned_lt _) (Value.unsigned_lt _)

/-- The four cross products sum to the product of the values. -/
theorem cross_products {w : Nat} (x y : Value w) :
    mulU x.low y.low + (mulU x.low y.high + mulU x.high y.low) * 2 ^ w + mulU x.high y.high * 2 ^ (2 * w) =
      x.unsigned * y.unsigned := by
  simp only [mulU, Value.unsigned, two_mul, pow_add]
  ring

theorem fullProduct_eq (signed : Bool) {w : Nat} (a b : Value w) :
    (fullProduct signed a b : Int) = a.val signed * b.val signed % (2 ^ (2 * w) * 2 ^ (2 * w)) := by
  have habs : (((a.mag signed).unsigned * (b.mag signed).unsigned : Nat) : Int) = |a.val signed * b.val signed| := by
    rw [Nat.cast_mul, Value.unsigned_mag, Value.unsigned_mag, abs_mul]
  have hlt := abs_mul_val_lt signed a b
  have hpow : (2 : Nat) ^ (4 * w) = 2 ^ (2 * w) * 2 ^ (2 * w) := by ring
  simp only [fullProduct, cross_products, hpow]
  cases hneg : negx signed a b with
  | true =>
    rw [abs_of_nonpos (mul_nonpos_of_negx hneg)] at habs hlt
    have hle : (a.mag signed).unsigned * (b.mag signed).unsigned ≤ 2 ^ (2 * w) * 2 ^ (2 * w) := by
      zify
      exact_mod_cast habs ▸ hlt.le
    rw [if_pos rfl, Int.natCast_mod, Nat.cast_sub hle, habs]
    push_cast
    rw [sub_neg_eq_add, Int.add_emod_left]
  | false =>
    rw [abs_of_nonneg (mul_nonneg_of_not_negx hneg)] at habs hlt
    rw [if_neg Bool.false_ne_true, habs, Int.emod_eq_of_lt (mul_nonneg_of_not_negx hneg) hlt]

theorem unsigned_mulLow (signed : Bool) {w : Nat} (a b : Value w) :
    ((mulLow signed a b).unsigned : Int) = a.val signed * b.val signed % 2 ^ (2 * w) := by
  rw [mulLow, Value.unsigned_packu]
  push_cast
  rw [fullProduct_eq, Int.emod_emod_of_dvd _ (dvd_mul_left _ _)]

theorem mulLow_eq_pack (signed : Bool) {w : Nat} (a b : Value w) :
    mulLow signed a b = Value.pack w (a.val signed * b.val signed) :=
  Value.eq_pack_of_unsigned (unsigned_mulLow signed a b)

theorem unsigned_mulHigh (signed : Bool) {w : Nat} (a b : Value w) :
    ((mulHigh signed a b).unsigned : Int) = a.val signed * b.val signed / 2 ^ (2 * w) % 2 ^ (2 * w) := by
  have hM : (2 : Int) ^ (2 * w) ≠ 0 := by positivity
  rw [mulHigh, Value.unsigned_packu]
  push_cast
  rw [fullProduct_eq, Int.emod_def _ (2 ^ (2 * w) * 2 ^ (2 * w)), mul_assoc, Int.sub_mul_ediv_left _ _ hM,
    Int.sub_mul_emod_self_left]

/-! ### MUL's flag (R82, R85) -/

theorem mulFlagged_eq (signed : Bool) {w : Nat} (a b : Value w) :
    mulFlagged signed a b =
      if negx signed a b then decide (a.val signed * b.val signed < -2 ^ (2 * w) ∨ -1 < a.val signed * b.val signed)
      else trueOverflow signed (2 * w) (a.val signed * b.val signed) := by
  have hsigns : (signed && (decide (a.val signed < 0) != decide (b.val signed < 0))) = negx signed a b := by
    rw [← Value.isneg_eq, ← Value.isneg_eq]
    cases signed <;> simp [negx, Value.isneg]
  rw [mulFlagged, hsigns]

theorem bits_eq_allOnes_iff {w : Nat} (x : Value w) :
    x.bits = BitVec.allOnes (w + w) ↔ (x.unsigned : Int) = 2 ^ (2 * w) - 1 := by
  have hpos := Nat.two_pow_pos (2 * w)
  rw [BitVec.toNat_eq, Value.bits_toNat, BitVec.toNat_allOnes, ← two_mul, ← Nat.cast_inj (R := Int), Nat.cast_sub hpos]
  norm_cast

theorem emod_eq_sub_one_iff {M n : Int} (hM : 2 ≤ M) (hmin : -M ≤ n) (hmax : n ≤ 0) : n % M = M - 1 ↔ n = -1 := by
  rcases hmax.lt_or_eq with hneg | rfl
  · rw [← Int.add_emod_right, Int.emod_eq_of_lt (by omega) (by omega)]
    omega
  · rw [Int.zero_emod]
    omega

/-- With a negative result expected, the discarded half is all ones exactly when the product is in `[-2^D, -1]`. -/
theorem mulHigh_allOnes_iff {signed : Bool} {w : Nat} (hw : 0 < w) {a b : Value w} (h : negx signed a b = true) :
    (mulHigh signed a b).bits = BitVec.allOnes (w + w) ↔
      -2 ^ (2 * w) ≤ a.val signed * b.val signed ∧ a.val signed * b.val signed ≤ -1 := by
  have hnonpos := mul_nonpos_of_negx h
  have hlt := abs_mul_val_lt signed a b
  have hM : (2 : Int) ≤ 2 ^ (2 * w) := by exact_mod_cast Nat.le_self_pow (by omega) 2
  have hpos : (0 : Int) < 2 ^ (2 * w) := by positivity
  rw [abs_of_nonpos hnonpos] at hlt
  have hmin : -2 ^ (2 * w) ≤ a.val signed * b.val signed / 2 ^ (2 * w) :=
    (Int.le_ediv_iff_mul_le hpos).mpr (by linarith)
  have hmax : a.val signed * b.val signed / 2 ^ (2 * w) ≤ 0 :=
    Int.le_of_lt_add_one ((Int.ediv_lt_iff_lt_mul hpos).mpr (by linarith))
  rw [bits_eq_allOnes_iff, unsigned_mulHigh, emod_eq_sub_one_iff hM hmin hmax, Int.ediv_eq_iff_of_pos hpos]
  omega

/-- With none expected, the discarded half is zero exactly when the product is below `2^D`. -/
theorem mulHigh_zero_iff {signed : Bool} {w : Nat} {a b : Value w} (h : negx signed a b = false) :
    (mulHigh signed a b).bits = 0 ↔ a.val signed * b.val signed < 2 ^ (2 * w) := by
  have hnonneg := mul_nonneg_of_not_negx h
  have hlt := abs_mul_val_lt signed a b
  have hM : (0 : Int) < 2 ^ (2 * w) := by positivity
  rw [abs_of_nonneg hnonneg] at hlt
  have hquot : 0 ≤ a.val signed * b.val signed / 2 ^ (2 * w) := Int.ediv_nonneg hnonneg hM.le
  rw [BitVec.toNat_eq, Value.bits_toNat, BitVec.ofNat_eq_ofNat, BitVec.toNat_zero]
  zify
  rw [unsigned_mulHigh, Int.emod_eq_of_lt hquot (Int.ediv_lt_of_lt_mul hM hlt), Int.ediv_eq_iff_of_pos hM, zero_mul,
    zero_add, and_iff_right hnonneg]

/-- The sign boundary: an integer in `[0, 2^D)` exceeds the type exactly when its pattern reads negative. -/
theorem isneg_pack {signed : Bool} {w : Nat} (hw : 0 < w) {t : Int} (h0 : 0 ≤ t) (hlt : t < 2 ^ (2 * w)) :
    (Value.pack w t).isneg signed = trueOverflow signed (2 * w) t := by
  rw [Value.isneg_eq]
  cases ht : trueOverflow signed (2 * w) t with
  | false =>
    obtain ⟨hmin, hmax⟩ := trueOverflow_eq_false_iff.mp ht
    rw [Value.val_pack signed hw hmin hmax]
    exact decide_eq_false h0.not_gt
  | true =>
    refine decide_eq_true (lt_of_not_ge fun hnonneg => ?_)
    have hval := Value.val_of_nonneg hnonneg
    rw [Value.unsigned_pack, Int.emod_eq_of_lt h0 hlt] at hval
    have hrange : trueOverflow signed (2 * w) t = false := trueOverflow_eq_false_iff.mpr
      ⟨hval ▸ Value.minOf_le_val signed _, hval ▸ Value.val_le_maxOf signed _⟩
    rw [hrange] at ht
    exact Bool.false_ne_true ht

theorem trueOverflow_of_two_pow_le (signed : Bool) {d : Nat} {t : Int} (h : 2 ^ d ≤ t) :
    trueOverflow signed d t = true := by
  have hhalf : (2 : Int) ^ (d - 1) ≤ 2 ^ d := pow_le_pow_right₀ one_le_two (Nat.sub_le d 1)
  refine trueOverflow_iff.mpr (.inr ?_)
  cases signed with
  | false => exact Int.sub_one_lt_of_le h
  | true => exact Int.sub_one_lt_of_le (hhalf.trans h)

theorem mulOvf_of_negx (signed : Bool) {w : Nat} (hi lo : Value w) :
    mulOvf signed true hi lo = true ↔ ¬hi.bits = BitVec.allOnes (w + w) := by
  simp [mulOvf]

theorem mulOvf_of_not_negx (signed : Bool) {w : Nat} (hi lo : Value w) :
    mulOvf signed false hi lo = true ↔ ¬hi.bits = 0 ∨ lo.isneg signed = true := by
  simp [mulOvf, Value.isneg]

/-- The two tests of R82 are the condition of R85 on the product. -/
theorem mulReport_snd (signed : Bool) {w : Nat} (hw : 0 < w) (a b : Value w) :
    (mulReport signed a b).2 = mulFlagged signed a b := by
  rw [mulReport, mulFlagged_eq, Bool.eq_iff_iff]
  cases h : negx signed a b with
  | true =>
    rw [mulOvf_of_negx, mulHigh_allOnes_iff hw h, if_pos rfl, decide_eq_true_iff]
    omega
  | false =>
    have hnonneg := mul_nonneg_of_not_negx h
    rw [mulOvf_of_not_negx, mulHigh_zero_iff h, not_lt, mulLow_eq_pack, if_neg Bool.false_ne_true]
    rcases lt_or_ge (a.val signed * b.val signed) (2 ^ (2 * w)) with hlt | hge
    · rw [isneg_pack hw hnonneg hlt, or_iff_right hlt.not_ge]
    · exact iff_of_true (.inl hge) (trueOverflow_of_two_pow_le signed hge)

/-! ### The obligations -/

/-- Settles O26: MAG completes with the magnitude, which reads as the absolute value. -/
theorem magnitudeIsTheAbsoluteValue : Obligations.MagnitudeIsTheAbsoluteValue := fun s a hfault =>
  ⟨rfl, _, congrArg _ (State.perform_plain_eq_answered hfault _), Value.unsigned_mag s.cfg.signed (s.operand a)⟩

/-- Settles O39: MUL.T takes MUL's answer when its flag is 0 (R83); with signs that agree no flag means an exact product. -/
theorem trappingMulCompletesWhenUnflagged : Obligations.TrappingMulCompletesWhenUnflagged := by
  intro s a b hfault hunflagged
  have hflag := (mulReport_snd s.cfg.signed s.cfg.W_pos (s.operand a) (s.operand b)).trans hunflagged
  refine ⟨_, congrArg _ (State.perform_trapping_of_unflagged hfault hflag),
    unsigned_mulLow s.cfg.signed (s.operand a) (s.operand b), fun hsigns => ?_⟩
  have hnegx : negx s.cfg.signed (s.operand a) (s.operand b) = false := by rw [negx, hsigns, bne_self_eq_false]
  rw [mulFlagged_eq, if_neg (by rw [hnegx]; exact Bool.false_ne_true)] at hunflagged
  rw [mulReport, mulLow_eq_pack]
  exact Config.val_pack_of_inRange hunflagged

end Sys2Proof.Machine
end

section
/-! MULFULL, MUL and MUL.T (42_multiply.md R81 to R85), from the product and the flag above. What is left to show of MULFULL is
that its high half is the quotient by `2^D` itself, not only modulo `2^D`: a product of two values fits the type of `2D` bits,
so its bits above the lowest `D` fit the unit's type. -/

namespace Sys2Proof.Machine

/-! ### The high half read as a value (R81) -/

theorem mul_val_in_double_range (signed : Bool) {w : Nat} (hw : 0 < w) (a b : Value w) :
    trueOverflow signed (2 * w + 2 * w) (a.val signed * b.val signed) = false := by
  have hlt := abs_mul_val_lt signed a b
  rw [trueOverflow_eq_false_iff]
  cases signed with
  | false =>
    have hnonneg : 0 ≤ a.val false * b.val false := mul_nonneg (a.minOf_le_val false) (b.minOf_le_val false)
    rw [abs_of_nonneg hnonneg, ← pow_add] at hlt
    exact ⟨hnonneg, Int.le_sub_one_of_lt hlt⟩
  | true =>
    have habs (x : Value w) : |x.val true| ≤ 2 ^ (2 * w - 1) :=
      abs_le.mpr ⟨x.minOf_le_val true, (x.val_le_maxOf true).trans (Int.sub_le_self _ zero_le_one)⟩
    have hprod : |a.val true * b.val true| ≤ 2 ^ (2 * w - 1) * 2 ^ (2 * w - 1) := by
      rw [abs_mul]
      exact mul_le_mul (habs a) (habs b) (abs_nonneg _) (by positivity)
    have hbound : (2 : Int) ^ (2 * w - 1) * 2 ^ (2 * w - 1) < 2 ^ (2 * w + 2 * w - 1) := by
      rw [← pow_add]
      exact pow_lt_pow_right₀ one_lt_two (by omega)
    obtain ⟨hmin, hmax⟩ := abs_lt.mp (hprod.trans_lt hbound)
    exact ⟨hmin.le, Int.le_sub_one_of_lt hmax⟩

theorem mulHigh_eq_pack (signed : Bool) {w : Nat} (a b : Value w) :
    mulHigh signed a b = Value.pack w (a.val signed * b.val signed / 2 ^ (2 * w)) :=
  Value.eq_pack_of_unsigned (unsigned_mulHigh signed a b)

theorem val_mulHigh (signed : Bool) {w : Nat} (hw : 0 < w) (a b : Value w) :
    (mulHigh signed a b).val signed = a.val signed * b.val signed / 2 ^ (2 * w) := by
  have hrange := mul_val_in_double_range signed hw a b
  rw [trueOverflow_add signed (by omega), trueOverflow_eq_false_iff] at hrange
  obtain ⟨hmin, hmax⟩ := hrange
  rw [mulHigh_eq_pack, Value.val_pack signed hw hmin hmax]

/-- The law of the full product (R81). -/
theorem val_mulHigh_mul_add_unsigned_mulLow (signed : Bool) {w : Nat} (hw : 0 < w) (a b : Value w) :
    (mulHigh signed a b).val signed * 2 ^ (2 * w) + (mulLow signed a b).unsigned = a.val signed * b.val signed := by
  rw [val_mulHigh signed hw, unsigned_mulLow, Int.ediv_mul_add_emod]

/-! ### The answers -/

/-- An operation with two results answers them while no trap is pending (30_encoding.md R51). -/
theorem State.perform_plain2 {s : State} (h : s.fault = false) (r v : Value s.cfg.W) :
    s.perform (plain2 r v) = s.answered r v false := by
  rw [plain2, State.perform_done h, State.complete_eq_answered h]

theorem exec_mulfull {s : State} (h : s.fault = false) (a b : Pair) :
    exec (.mulfull a b) s = .next (s.answered (mulLow s.cfg.signed (s.operand a) (s.operand b))
      (mulHigh s.cfg.signed (s.operand a) (s.operand b)) false) :=
  congrArg _ (State.perform_plain2 h _ _)

theorem exec_mul {s : State} (h : s.fault = false) (a b : Pair) :
    let x := mulReport s.cfg.signed (s.operand a) (s.operand b)
    exec (.mul a b) s = .next (s.answered x.1 ⟨0, 0⟩ x.2) :=
  congrArg _ (State.perform_reporting h _)

/-! ### The obligations -/

/-- Settles O33: both forms compute one value and flag. -/
theorem trappingMulFollowsReportingMul : Obligations.TrappingMulFollowsReportingMul := fun _ a b hfault =>
  ⟨rfl, _, _, exec_mul hfault a b, fun ho => congrArg _ (State.perform_trapping_of_unflagged hfault ho),
    fun ho => congrArg _ (State.perform_trapping_of_flagged hfault ho)⟩

/-- Settles O37: quotient and remainder by `2^D` make up the product. -/
theorem mulfullIsTheExactProduct : Obligations.MulfullIsTheExactProduct := fun s a b hfault =>
  ⟨rfl, _, _, exec_mulfull hfault a b, val_mulHigh_mul_add_unsigned_mulLow s.cfg.signed s.cfg.W_pos _ _⟩

/-- Settles O38: the wrapped product, with the flag of R82 as R85's condition. -/
theorem mulIsTheLowHalfWithItsFlag : Obligations.MulIsTheLowHalfWithItsFlag := by
  intro s a b hfault
  rw [← mulReport_snd s.cfg.signed s.cfg.W_pos]
  exact ⟨rfl, _, exec_mul hfault a b, unsigned_mulLow s.cfg.signed (s.operand a) (s.operand b)⟩

end Sys2Proof.Machine
end

section
/-! The divider (43_divide.md R91). A stage of the long division holds the quotient and the remainder of the dividend bits shifted
in so far; the signs put on the magnitudes' quotient and remainder make them those of the truncated division. -/

namespace Sys2Proof

/-! ### Leading zeros (R116) -/

/-- A pattern of `n` bits is its leading zeros and its significant bits. -/
theorem lzcN_add_size {n x : Nat} (hx : x < 2 ^ n) : lzcN n x + x.size = n := by
  induction n with
  | zero =>
    obtain rfl : x = 0 := by omega
    rfl
  | succ n ih =>
    rw [lzcN]
    rcases lt_or_ge x (2 ^ n) with hlt | hge
    · have hih := ih hlt
      rw [Nat.testBit_lt_two_pow hlt, if_neg Bool.false_ne_true]
      omega
    · have hsize : x.size = n + 1 := le_antisymm (Nat.size_le.mpr hx) (Nat.lt_size.mpr hge)
      rw [Nat.testBit_of_two_pow_le_and_two_pow_add_one_gt hge hx, if_pos rfl, hsize, zero_add]

end Sys2Proof

namespace Sys2Proof.Machine

/-! ### Long division (R91) -/

/-- The dividend's next bit shifted into the remainder. -/
theorem div_two_pow_eq_shiftIn (x i : Nat) : x / 2 ^ i = 2 * (x / 2 ^ (i + 1)) + (x.testBit i).toNat := by
  rw [Nat.toNat_testBit, pow_succ, ← Nat.div_div_eq_div_mul, Nat.div_add_mod]

/-- One bit more of the dividend, where the divisor fits the new remainder. -/
theorem shiftIn_of_fits {y z b : Nat} (hy : 0 < y) (hb : b ≤ 1) (h : y ≤ 2 * (z % y) + b) :
    (2 * z + b) / y = 2 * (z / y) + 1 ∧ (2 * z + b) % y = 2 * (z % y) + b - y := by
  have hz := Nat.div_add_mod z y
  have hlt := Nat.mod_lt z hy
  refine (Nat.div_mod_unique hy).mpr ⟨?_, by omega⟩
  rw [mul_add, mul_left_comm]
  omega

theorem shiftIn_of_not_fits {y z b : Nat} (h : 2 * (z % y) + b < y) :
    (2 * z + b) / y = 2 * (z / y) ∧ (2 * z + b) % y = 2 * (z % y) + b := by
  have hz := Nat.div_add_mod z y
  refine (Nat.div_mod_unique (by omega)).mpr ⟨?_, h⟩
  rw [mul_left_comm]
  omega

/-- The loop from bit `i - 1` down, entered with the quotient and the remainder of the dividend bits above. -/
theorem divLoop_eq {y : Nat} (hy : 0 < y) (x i : Nat) :
    divLoop x y i (x / 2 ^ i % y) (x / 2 ^ i / y * 2 ^ i) = (x / y, x % y) := by
  induction i with
  | zero => simp [divLoop]
  | succ i ih =>
    rw [div_two_pow_eq_shiftIn x i] at ih
    rw [divLoop, ← ih]
    split
    case isTrue hfits =>
      obtain ⟨hquot, hrem⟩ := shiftIn_of_fits hy (Bool.toNat_le _) hfits
      rw [hquot, hrem, pow_succ]
      congr 1
      ring
    case isFalse hnot =>
      obtain ⟨hquot, hrem⟩ := shiftIn_of_not_fits (not_le.mp hnot)
      rw [hquot, hrem, pow_succ]
      congr 1
      ring

/-- At the aligned position the dividend bits above are fewer than the divisor's, so the loop starts as `divLoop_eq` asks. -/
theorem divmag_eq {n x y : Nat} (hx : x < 2 ^ n) (hy : y < 2 ^ n) (hy0 : y ≠ 0) : divmag x y n = (x / y, x % y) := by
  have hxsize := lzcN_add_size hx
  have hysize := lzcN_add_size hy
  have hpos : 0 < y := Nat.pos_of_ne_zero hy0
  have hysize0 : 0 < y.size := Nat.size_pos.mpr hpos
  have hle : 2 ^ (y.size - 1) ≤ y := Nat.lt_size.mp (by omega)
  rw [divmag]
  split
  case isTrue hshort =>
    have hlt : x < y := (Nat.size_le.mp (by omega : x.size ≤ y.size - 1)).trans_le hle
    rw [Nat.div_eq_of_lt hlt, Nat.mod_eq_of_lt hlt]
  case isFalse haligned =>
    have hlt : x / 2 ^ (lzcN n y - lzcN n x + 1) < y := by
      refine lt_of_lt_of_le (Nat.div_lt_of_lt_mul ?_) hle
      rw [← pow_add]
      exact Nat.size_le.mp (by omega)
    have hloop := divLoop_eq hpos x (lzcN n y - lzcN n x + 1)
    rwa [Nat.mod_eq_of_lt hlt, Nat.div_eq_of_lt hlt, zero_mul] at hloop

/-- Settles O40: the long division from the aligned position down. -/
theorem divmagIsEuclideanDivision : Obligations.DivmagIsEuclideanDivision := fun _ _ _ hx hy hy0 =>
  divmag_eq hx hy hy0

end Sys2Proof.Machine
end

section
/-! The divisions (43_divide.md R90 to R99), from the divider above: where they do not overflow they answer the truncated quotient
and its remainder, which the unit's type holds; where they do, the reporting forms answer free values and the others trap. -/

namespace Sys2Proof

open Machine

/-! ### The signs of quotient and remainder (R91) -/

/-- The quotient of the magnitudes, negated iff exactly one operand is negative: the four cases by which `Int.tdiv` is defined. -/
theorem tdiv_eq_signed_quotient (x y : Int) :
    (if decide (x < 0) != decide (y < 0) then -((x.natAbs / y.natAbs : Nat) : Int) else (x.natAbs / y.natAbs : Nat)) =
      x.tdiv y := by
  cases x <;> cases y <;> simp [Int.tdiv, Int.negSucc_lt_zero, (Int.natCast_nonneg _).not_gt]

/-- The remainder of the magnitudes with the dividend's sign. -/
theorem tmod_eq_signed_remainder (x y : Int) :
    (if x < 0 then -((x.natAbs % y.natAbs : Nat) : Int) else (x.natAbs % y.natAbs : Nat)) = x.tmod y := by
  rw [← Int.natAbs_tmod]
  rcases lt_or_ge x 0 with hneg | hnonneg
  · have hneg' : 0 ≤ (-x).tmod y := Int.tmod_nonneg y (by omega)
    rw [Int.neg_tmod] at hneg'
    rw [if_pos hneg, Int.ofNat_natAbs_of_nonpos (by omega), neg_neg]
  · rw [if_neg hnonneg.not_gt, Int.natAbs_of_nonneg (Int.tmod_nonneg y hnonneg)]

theorem sub_tdiv_mul (x y : Int) : x - x.tdiv y * y = x.tmod y := by
  rw [mul_comm, Int.tmod_def]

/-! ### Results inside the unit's type -/

theorem zero_in_range (signed : Bool) (d : Nat) : minOf signed d ≤ 0 ∧ 0 ≤ maxOf signed d := by
  cases signed with
  | false => exact ⟨le_rfl, sub_nonneg.mpr (one_le_pow₀ one_le_two)⟩
  | true => exact ⟨neg_nonpos.mpr (by positivity), sub_nonneg.mpr (one_le_pow₀ one_le_two)⟩

theorem divOverflow_eq_false_iff {signed : Bool} {d : Nat} {x y : Int} :
    divOverflow signed d x y = false ↔ y ≠ 0 ∧ (signed = true → y = -1 → x ≠ minOf signed d) := by
  simp only [divOverflow, Bool.or_eq_false_iff, Bool.and_eq_false_imp, Bool.and_eq_true, decide_eq_false_iff_not,
    decide_eq_true_eq, and_imp, ne_eq]

/-- Only `MIN` by `-1` has a quotient outside the type (R90). -/
theorem trueOverflow_tdiv {signed : Bool} {d : Nat} {x y : Int} (hx : trueOverflow signed d x = false)
    (hy : minOf signed d ≤ y) (h : divOverflow signed d x y = false) : trueOverflow signed d (x.tdiv y) = false := by
  rw [trueOverflow_eq_false_iff] at *
  obtain ⟨hmin, hmax⟩ := hx
  obtain ⟨hy0, hminus⟩ := divOverflow_eq_false_iff.mp h
  have habs := Int.natAbs_tdiv_le_natAbs x y
  cases signed with
  | false =>
    have hx0 : 0 ≤ x := hmin
    exact ⟨Int.tdiv_nonneg hx0 hy, (Int.tdiv_le_self y hx0).trans hmax⟩
  | true =>
    have hpos : (0 : Int) < 2 ^ (d - 1) := by positivity
    simp only [minOf, maxOf, if_true] at *
    refine ⟨by omega, ?_⟩
    obtain rfl | rfl | hlarge : y = 1 ∨ y = -1 ∨ 2 ≤ y.natAbs := by omega
    · rwa [Int.tdiv_one]
    · have hne := hminus trivial rfl
      rw [Int.tdiv_neg, Int.tdiv_one]
      omega
    · have hhalf : (x.tdiv y).natAbs ≤ x.natAbs / 2 := by
        rw [Int.natAbs_tdiv]
        exact Nat.div_le_div_left hlarge two_pos
      omega

/-- A remainder lies between zero and the dividend. -/
theorem trueOverflow_tmod {signed : Bool} {d : Nat} {x : Int} (hx : trueOverflow signed d x = false) (y : Int) :
    trueOverflow signed d (x.tmod y) = false := by
  rw [trueOverflow_eq_false_iff] at *
  obtain ⟨hmin, hmax⟩ := hx
  obtain ⟨hmin0, hmax0⟩ := zero_in_range signed d
  have hle := Nat.mod_le x.natAbs y.natAbs
  rw [← tmod_eq_signed_remainder]
  split <;> omega

theorem natAbs_lt_two_pow {signed : Bool} {d : Nat} (hd : 0 < d) {t : Int} (h : trueOverflow signed d t = false) :
    t.natAbs < 2 ^ d := by
  obtain ⟨hmin, hmax⟩ := trueOverflow_eq_false_iff.mp h
  zify
  cases signed with
  | false =>
    rw [abs_of_nonneg hmin]
    exact Int.lt_of_le_sub_one hmax
  | true =>
    have hhalf : (2 : Int) ^ (d - 1) < 2 ^ d := pow_lt_pow_right₀ one_lt_two (by omega)
    exact (abs_le.mpr ⟨hmin, hmax.trans (Int.sub_le_self _ zero_le_one)⟩).trans_lt hhalf

theorem Value.trueOverflow_val (signed : Bool) {w : Nat} (x : Value w) :
    trueOverflow signed (2 * w) (x.val signed) = false :=
  trueOverflow_eq_false_iff.mpr ⟨x.minOf_le_val signed, x.val_le_maxOf signed⟩

theorem Value.unsigned_mag_eq_natAbs (signed : Bool) {w : Nat} (x : Value w) :
    (x.mag signed).unsigned = (x.val signed).natAbs := by
  zify
  exact x.unsigned_mag signed

end Sys2Proof

namespace Sys2Proof.Machine

/-! ### The division of two values (R91) -/

/-- The pattern of a signed result is that of the integer packed. -/
theorem packu_signedPattern {w : Nat} (neg : Bool) {m : Nat} (hm : m < 2 ^ (2 * w)) :
    Value.packu w (signedPattern (2 * w) neg m) = Value.pack w (if neg then -(m : Int) else m) := by
  refine Value.eq_pack_of_unsigned ?_
  rw [Value.unsigned_packu, signedPattern]
  cases neg with
  | false => rfl
  | true =>
    rw [if_pos rfl, if_pos rfl, Nat.mod_mod, Int.natCast_mod, Nat.cast_sub hm.le, Int.neg_emod_eq_sub_emod]
    push_cast
    rfl

theorem divcore_eq {signed : Bool} {w : Nat} (a : Value w) {b : Value w} (hb : b.val signed ≠ 0) :
    divcore signed a b = (Value.pack w ((a.val signed).tdiv (b.val signed)),
      Value.pack w (a.val signed - (a.val signed).tdiv (b.val signed) * b.val signed)) := by
  have hmag := fun v : Value w => Value.unsigned_mag_eq_natAbs signed v
  have hlt := fun v : Value w => hmag v ▸ (v.mag signed).unsigned_lt
  have hquot := (Nat.div_le_self _ (b.val signed).natAbs).trans_lt (hlt a)
  have hrem := (Nat.mod_le _ (b.val signed).natAbs).trans_lt (hlt a)
  rw [sub_tdiv_mul, ← tdiv_eq_signed_quotient, ← tmod_eq_signed_remainder]
  simp only [divcore, hmag, divmag_eq (hlt a) (hlt b) (Int.natAbs_ne_zero.mpr hb), Value.isneg_eq,
    packu_signedPattern _ hquot, packu_signedPattern _ hrem, decide_eq_true_eq]

/-- The test on the operands is the overflow of their division (R90). -/
theorem divov_eq (signed : Bool) {w : Nat} (a b : Value w) :
    divov signed a b = divOverflow signed (2 * w) (a.val signed) (b.val signed) := by
  have hzero : b.bits = 0 ↔ b.val signed = 0 := by
    rw [Value.val_eq_bval_bits, ← (bval_injective signed (w + w)).eq_iff]
    cases signed <;> simp [bval]
  rw [divov, divOverflow, Bool.beq_eq_decide_eq, decide_eq_decide.mpr hzero]

/-! ### The forms of a division (R92 to R97) -/

section
variable {s : State} (h : s.fault = false) {a b : Pair} {e f : Effect s.cfg.W}
  (hov : divOverflow s.cfg.signed s.cfg.D ((s.operand a).val s.cfg.signed) ((s.operand b).val s.cfg.signed) = true)
include h hov

/-- A division that reports its overflow answers what it drew, with the flag set. -/
theorem State.perform_drawn_of_divOverflow {r v : Value s.cfg.W} {n : Nat} :
    s.perform (if divov s.cfg.signed (s.operand a) (s.operand b) then .done r v true n else f) =
      { s.answered r v true with draws := s.draws + n } := by
  rw [if_pos ((divov_eq ..).trans hov), State.perform_done h, ← State.complete_eq_answered h]
  rfl

theorem State.perform_trap_of_divOverflow :
    s.perform (if divov s.cfg.signed (s.operand a) (s.operand b) then .trap .overflow else f) = s.trapped 1 := by
  rw [if_pos ((divov_eq ..).trans hov), State.perform_trap h]
  exact s.trapEntry_eq_trapped .overflow

end

section
variable {s : State} (h : s.fault = false) {a b : Pair} {e f : Effect s.cfg.W}
  (hov : divOverflow s.cfg.signed s.cfg.D ((s.operand a).val s.cfg.signed) ((s.operand b).val s.cfg.signed) = false)
include hov

theorem ite_divov_eq_right : (if divov s.cfg.signed (s.operand a) (s.operand b) then e else f) = f :=
  if_neg (ne_true_of_eq_false ((divov_eq ..).trans hov))

include h

/-- A division that does not overflow and answers both results, whatever its form does on an overflow. -/
theorem State.perform_divrem :
    let x := (s.operand a).val s.cfg.signed
    let y := (s.operand b).val s.cfg.signed
    let qr := divcore s.cfg.signed (s.operand a) (s.operand b)
    s.perform (if divov s.cfg.signed (s.operand a) (s.operand b) then e else plain2 qr.1 qr.2) =
      s.answered (Value.pack _ (x.tdiv y)) (Value.pack _ (x - x.tdiv y * y)) false := by
  intro x y qr
  have hqr : qr = _ := divcore_eq _ (divOverflow_eq_false_iff.mp hov).1
  rw [ite_divov_eq_right hov, State.perform_plain2 h, hqr]

theorem State.perform_div :
    let x := (s.operand a).val s.cfg.signed
    let y := (s.operand b).val s.cfg.signed
    let qr := divcore s.cfg.signed (s.operand a) (s.operand b)
    s.perform (if divov s.cfg.signed (s.operand a) (s.operand b) then e else plain qr.1) =
      s.answered (Value.pack _ (x.tdiv y)) ⟨0, 0⟩ false := by
  intro x y qr
  have hqr : qr = _ := divcore_eq _ (divOverflow_eq_false_iff.mp hov).1
  rw [ite_divov_eq_right hov, State.perform_plain_eq_answered h, hqr]

theorem State.perform_rem :
    let x := (s.operand a).val s.cfg.signed
    let y := (s.operand b).val s.cfg.signed
    let qr := divcore s.cfg.signed (s.operand a) (s.operand b)
    s.perform (if divov s.cfg.signed (s.operand a) (s.operand b) then e else plain qr.2) =
      s.answered (Value.pack _ (x - x.tdiv y * y)) ⟨0, 0⟩ false := by
  intro x y qr
  have hqr : qr = _ := divcore_eq _ (divOverflow_eq_false_iff.mp hov).1
  rw [ite_divov_eq_right hov, State.perform_plain_eq_answered h, hqr]

end

/-! ### The obligations on DIVREM, DIV, REM and their trapping forms -/

/-- Settles O41: the divider's two results. -/
theorem divremIsTruncatedDivision : Obligations.DivremIsTruncatedDivision := fun _ _ _ hfault hov =>
  ⟨rfl, congrArg _ (State.perform_divrem hfault hov)⟩

/-- Settles O44: DIV answers the divider's first result, REM its second. -/
theorem divAndRemAreTruncatedDivision : Obligations.DivAndRemAreTruncatedDivision := fun _ _ _ hfault hov =>
  ⟨rfl, rfl, congrArg _ (State.perform_div hfault hov), congrArg _ (State.perform_rem hfault hov)⟩

/-- Settles O45: without an overflow the trapping forms answer as the reporting ones. -/
theorem trappingDivisionsComplete : Obligations.TrappingDivisionsComplete := fun _ _ _ hfault hov =>
  ⟨rfl, rfl, rfl, congrArg _ (State.perform_divrem hfault hov), congrArg _ (State.perform_div hfault hov),
    congrArg _ (State.perform_rem hfault hov)⟩

/-- Settles O43: the drawn values are the results. -/
theorem reportingDivisionsOverflowWithFreeResults : Obligations.ReportingDivisionsOverflowWithFreeResults :=
  fun _ _ _ hfault hov =>
    ⟨⟨_, _, _, congrArg _ (State.perform_drawn_of_divOverflow hfault hov)⟩,
      ⟨_, _, congrArg _ (State.perform_drawn_of_divOverflow hfault hov)⟩,
      ⟨_, _, congrArg _ (State.perform_drawn_of_divOverflow hfault hov)⟩⟩

/-- Settles O46: each of the three makes the same test and takes the same trap. -/
theorem trappingDivisionsTrapOnOverflow : Obligations.TrappingDivisionsTrapOnOverflow := fun _ _ _ hfault hov =>
  ⟨congrArg _ (State.perform_trap_of_divOverflow hfault hov), congrArg _ (State.perform_trap_of_divOverflow hfault hov),
    congrArg _ (State.perform_trap_of_divOverflow hfault hov)⟩

/-- Settles O42: quotient and remainder are inside the unit's type, so the packed results read as those of the truncated
division. -/
theorem divisionLaws : Obligations.DivisionLaws := by
  intro s a b hfault sg x y hov
  have hx : trueOverflow sg s.cfg.D x = false := (s.operand a).trueOverflow_val sg
  have hy0 : y ≠ 0 := (divOverflow_eq_false_iff.mp hov).1
  have hr := Config.val_pack_of_inRange (trueOverflow_tdiv hx ((s.operand b).minOf_le_val sg) hov)
  have hv := Config.val_pack_of_inRange (trueOverflow_tmod hx y)
  rw [← sub_tdiv_mul] at hv
  refine ⟨_, _, (divremIsTruncatedDivision s a b hfault hov).2, congrArg _ (State.perform_div hfault hov),
    congrArg _ (State.perform_rem hfault hov), ?_⟩
  rw [hr, hv, sub_tdiv_mul, Int.mul_tdiv_add_tmod]
  refine ⟨rfl, ?_, ?_⟩
  · rw [Int.abs_eq_natAbs, Int.abs_eq_natAbs, Int.natAbs_tmod]
    exact_mod_cast Nat.mod_lt _ (Int.natAbs_pos.mpr hy0)
  · rw [← tmod_eq_signed_remainder]
    split <;> omega

end Sys2Proof.Machine
end

section
/-! DIVFULL (43_divide.md R98): the promoted dividend fits `4W` bits and its bits above the lowest `D` are the high operand, which
bounds the division and, in an unsigned unit, says when the quotient fits. MULFULL's product is such a dividend. -/

namespace Sys2Proof

open Machine

/-! ### The range of an unsigned unit, and the NARROW test -/

theorem Value.val_eq_unsigned {signed : Bool} (h : signed = false) {w : Nat} (x : Value w) :
    x.val signed = x.unsigned := by
  subst h
  exact Value.val_of_nonneg (x.minOf_le_val false)

theorem trueOverflow_iff_two_pow_le {signed : Bool} (h : signed = false) {d : Nat} {q : Int} (hq : 0 ≤ q) :
    trueOverflow signed d q = true ↔ 2 ^ d ≤ q := by
  subst h
  have hmin : ¬q < minOf false d := hq.not_gt
  rw [trueOverflow_iff, or_iff_right hmin]
  exact Int.sub_one_lt_iff

theorem outOfRange_eq (signed : Bool) (d : Nat) (q : Int) : outOfRange signed d q = trueOverflow signed d q := by
  rw [Bool.eq_iff_iff, trueOverflow_iff, outOfRange, Bool.not_eq_true', decide_eq_false_iff_not, not_and_or, not_le, not_le]

end Sys2Proof

namespace Sys2Proof.Machine

/-! ### The promoted dividend -/

theorem promoted_ediv (signed : Bool) {w : Nat} (a c : Value w) : promoted signed a c / 2 ^ (2 * w) = a.val signed := by
  have hlt : (c.unsigned : Int) < 2 ^ (2 * w) := by exact_mod_cast c.unsigned_lt
  rw [promoted, Int.mul_add_ediv_right _ _ (by positivity), Int.ediv_eq_zero_of_lt (Int.natCast_nonneg _) hlt, add_zero]

theorem promoted_in_quadruple_range (signed : Bool) {w : Nat} (hw : 0 < w) (a c : Value w) :
    trueOverflow signed (4 * w) (promoted signed a c) = false := by
  have hwidth : 4 * w = 2 * w + 2 * w := by omega
  rw [hwidth, trueOverflow_add signed (by omega), promoted_ediv]
  exact a.trueOverflow_val signed

/-- In an unsigned unit the quotient is below `2^D` exactly when the dividend's high half is below the divisor. -/
theorem trueOverflow_promoted_tdiv_iff {signed : Bool} (h : signed = false) {w : Nat} (a c : Value w) {b : Value w}
    (hb : b.unsigned ≠ 0) :
    trueOverflow signed (2 * w) ((promoted signed a c).tdiv (b.val signed)) = true ↔ b.unsigned ≤ a.unsigned := by
  have ha := Value.val_eq_unsigned h a
  have hbpos : (0 : Int) < b.unsigned := by exact_mod_cast Nat.pos_of_ne_zero hb
  have hnonneg : 0 ≤ promoted signed a c := by
    rw [promoted, ha]
    positivity
  rw [Value.val_eq_unsigned h b, Int.tdiv_eq_ediv_of_nonneg hnonneg,
    trueOverflow_iff_two_pow_le h (Int.ediv_nonneg hnonneg hbpos.le), Int.le_ediv_iff_mul_le hbpos, mul_comm,
    ← Int.le_ediv_iff_mul_le (by positivity), promoted_ediv, ha, Nat.cast_le]

/-! ### The division of the promoted dividend -/

/-- Without an overflow the divider gives the truncated quotient, which is tested, and its remainder. -/
theorem divfull_eq (signed : Bool) {w : Nat} (hw : 0 < w) (a b c : Value w) :
    let nv := promoted signed a c
    let bv := b.val signed
    divfull signed a b c = if divOverflow signed (4 * w) nv bv then .trap .overflow
      else if trueOverflow signed (2 * w) (nv.tdiv bv) then .trap .narrow
      else plain2 (Value.pack w (nv.tdiv bv)) (Value.pack w (nv - nv.tdiv bv * bv)) := by
  intro nv bv
  cases hov : divOverflow signed (4 * w) nv bv with
  | true => exact if_pos hov
  | false =>
    have hb0 : bv ≠ 0 := (divOverflow_eq_false_iff.mp hov).1
    have hn := natAbs_lt_two_pow (by omega) (promoted_in_quadruple_range signed hw a c)
    have hb : bv.natAbs < 2 ^ (4 * w) :=
      (natAbs_lt_two_pow (by omega) (b.trueOverflow_val signed)).trans (Nat.pow_lt_pow_right one_lt_two (by omega))
    have hnot : ¬divfullOvf signed w nv bv = true := ne_true_of_eq_false hov
    rw [if_neg Bool.false_ne_true, sub_tdiv_mul, ← tdiv_eq_signed_quotient, ← tmod_eq_signed_remainder, ← outOfRange_eq,
      divfull, if_neg hnot, divmag_eq hn hb (Int.natAbs_ne_zero.mpr hb0)]

/-- What DIVFULL answers or traps with while no trap is pending, in the order of its tests (R135). -/
theorem exec_divfull {s : State} (h : s.fault = false) {a b c : Pair} {nv bv : Int}
    (hnv : promoted s.cfg.signed (s.operand a) (s.operand c) = nv) (hbv : (s.operand b).val s.cfg.signed = bv) :
    exec (.divfull a b c) s = .next (if divOverflow s.cfg.signed (4 * s.cfg.W) nv bv then s.trapped 1
      else if trueOverflow s.cfg.signed s.cfg.D (nv.tdiv bv) then s.trapped 2
      else s.answered (Value.pack _ (nv.tdiv bv)) (Value.pack _ (nv - nv.tdiv bv * bv)) false) := by
  have hperform : exec (.divfull a b c) s =
      .next (s.perform (divfull s.cfg.signed (s.operand a) (s.operand b) (s.operand c))) := rfl
  rw [hperform, divfull_eq _ s.cfg.W_pos, hnv, hbv, Config.D]
  split
  · exact congrArg _ ((State.perform_trap h .overflow).trans (s.trapEntry_eq_trapped .overflow))
  · split
    · exact congrArg _ ((State.perform_trap h .narrow).trans (s.trapEntry_eq_trapped .narrow))
    · exact congrArg _ (State.perform_plain2 h _ _)

/-- An answer and a trap are told apart by the response's `trap`. -/
theorem State.answered_ne_trapped (s : State) (r v : Value s.cfg.W) (o : Bool) (code : Nat) :
    s.answered r v o ≠ s.trapped code := by
  simp [State.answered, State.trapped]

/-! ### The division of MULFULL's product -/

/-- A result put back on the operand port reads as itself. -/
theorem State.operand_toPair (s : State) (v : Value s.cfg.W) : s.operand v.toPair = v := v.ofPair_toPair

/-- A product of two values is not the minimum of quadruple width when one of them is `-1`. -/
theorem divOverflow_mul_val (signed : Bool) {w : Nat} (x : Value w) {y : Int} (hy : y ≠ 0) :
    divOverflow signed (4 * w) (x.val signed * y) y = false := by
  refine divOverflow_eq_false_iff.mpr ⟨hy, ?_⟩
  rintro rfl rfl hmin
  have hmax : x.val true ≤ 2 ^ (2 * w - 1) - 1 := x.val_le_maxOf true
  have hpow : (2 : Int) ^ (2 * w - 1) ≤ 2 ^ (4 * w - 1) := pow_le_pow_right₀ one_le_two (by omega)
  have hval : x.val true * -1 = -2 ^ (4 * w - 1) := hmin
  omega

/-! ### The obligations on DIVFULL -/

/-- Settles O47: both tests fail. -/
theorem divfullCompletesWhenTheQuotientFits : Obligations.DivfullCompletesWhenTheQuotientFits := by
  intro s a b c hfault nv bv hov hfits
  have hnv : promoted s.cfg.signed (s.operand a) (s.operand c) = nv := rfl
  have hbv : (s.operand b).val s.cfg.signed = bv := rfl
  have hexec := exec_divfull hfault hnv hbv
  rw [if_neg (ne_true_of_eq_false hov), if_neg (ne_true_of_eq_false hfits)] at hexec
  exact ⟨rfl, hexec⟩

/-- Settles O48: the tests in their order; in an unsigned unit only a zero divisor overflows. -/
theorem divfullTrapsOverflowThenNarrow : Obligations.DivfullTrapsOverflowThenNarrow := by
  intro s a b c hfault nv bv
  have hnv : promoted s.cfg.signed (s.operand a) (s.operand c) = nv := rfl
  have hbv : (s.operand b).val s.cfg.signed = bv := rfl
  have hexec := exec_divfull hfault hnv hbv
  refine ⟨fun hov => ?_, fun hov hwide => ?_, fun hunsigned hb => ?_⟩
  · rw [hexec, if_pos hov]
  · rw [hexec, if_neg (ne_true_of_eq_false hov), if_pos hwide]
  · have hdivisor : bv = (s.operand b).unsigned := Value.val_eq_unsigned hunsigned _
    have hov : divOverflow s.cfg.signed (4 * s.cfg.W) nv bv = false :=
      divOverflow_eq_false_iff.mpr ⟨hdivisor ▸ Int.natCast_ne_zero.mpr hb,
        fun hsigned => absurd (hunsigned.symm.trans hsigned) Bool.false_ne_true⟩
    have hwide : trueOverflow s.cfg.signed s.cfg.D (nv.tdiv bv) = true ↔ (s.operand b).unsigned ≤ (s.operand a).unsigned :=
      trueOverflow_promoted_tdiv_iff hunsigned _ _ hb
    rw [hexec, if_neg (ne_true_of_eq_false hov), ← hwide, Host.Outcome.next.injEq]
    split
    case isTrue hnarrow => exact iff_of_true rfl hnarrow
    case isFalse hfits => exact iff_of_false (s.answered_ne_trapped _ _ _ _) hfits

/-- Settles O49: the operand ports carry MULFULL's two halves, which make up the product; its quotient by `y` is the value of
`x`, inside the unit's type. -/
theorem divfullUndoesMulfull : Obligations.DivfullUndoesMulfull := by
  intro s x y hfault hy
  have hprod : promoted s.cfg.signed (s.operand (mulHigh s.cfg.signed (s.operand x) (s.operand y)).toPair)
      (s.operand (mulLow s.cfg.signed (s.operand x) (s.operand y)).toPair) =
        (s.operand x).val s.cfg.signed * (s.operand y).val s.cfg.signed := by
    rw [s.operand_toPair, s.operand_toPair]
    exact val_mulHigh_mul_add_unsigned_mulLow s.cfg.signed s.cfg.W_pos _ _
  refine ⟨_, _, exec_mulfull hfault x y, (exec_divfull hfault hprod rfl).trans ?_⟩
  have hfits : trueOverflow s.cfg.signed s.cfg.D ((s.operand x).val s.cfg.signed) = false := Value.trueOverflow_val _ _
  have hzero : Value.pack s.cfg.W 0 = ⟨0, 0⟩ := by simp [Value.pack]
  rw [if_neg (ne_true_of_eq_false (divOverflow_mul_val _ _ hy)), Int.mul_tdiv_cancel _ hy,
    if_neg (ne_true_of_eq_false hfits), sub_self, Value.pack_val, hzero]

end Sys2Proof.Machine
end

section
/-! The bitwise operators (44_bitwise.md R100): bit `k` of a value is bit `k` of its low limb or, from `W` on, bit `k - W` of its
high limb, so an operator that acts bit by bit on each limb acts bit by bit on the value. -/

namespace Sys2Proof

theorem Value.testBit_unsigned {w : Nat} (x : Value w) (k : Nat) :
    x.unsigned.testBit k = if k < w then x.low.getLsbD k else x.high.getLsbD (k - w) := by
  rw [← x.bits_toNat, BitVec.testBit_toNat, Value.bits, BitVec.getLsbD_append]

end Sys2Proof

namespace Sys2Proof.Machine

/-- The bits of a limbwise result, for an operator `f` on limbs that is `g` on every bit. -/
theorem testBit_unsigned_limbwise {w : Nat} {f : BitVec w → BitVec w → BitVec w} {g : Bool → Bool → Bool}
    (hf : ∀ u v i, (f u v).getLsbD i = g (u.getLsbD i) (v.getLsbD i)) (a b : Value w) (k : Nat) :
    (limbwise f a b).unsigned.testBit k = g (a.unsigned.testBit k) (b.unsigned.testBit k) := by
  rw [Value.testBit_unsigned, Value.testBit_unsigned a, Value.testBit_unsigned b]
  split
  case isTrue hlow => exact hf a.low b.low k
  case isFalse hhigh => exact hf a.high b.high (k - w)

/-- Settles O50: each operator answers the limbwise result, whose bits are those of the operands under `and`, `or`, `xor`. -/
theorem bitwiseOperatorsActBitByBit : Obligations.BitwiseOperatorsActBitByBit := by
  intro s a b hfault
  have hanswer := State.perform_plain_eq_answered hfault
  exact ⟨rfl, rfl, rfl, _, _, _, congrArg _ (hanswer _), congrArg _ (hanswer _), congrArg _ (hanswer _), fun k _ =>
    ⟨testBit_unsigned_limbwise (fun _ _ _ => BitVec.getLsbD_and) _ _ k,
      testBit_unsigned_limbwise (fun _ _ _ => BitVec.getLsbD_or) _ _ k,
      testBit_unsigned_limbwise (fun _ _ _ => BitVec.getLsbD_xor) _ _ k⟩⟩

end Sys2Proof.Machine
end

section
/-! The barrel shifter (45_shift.md R105 to R111). The funnels shift the `D` bits of a value as `shlW` and `shrB` shift the bits of
a limb, and their formulas for a count above `W` evict everything from `D` on, so the saturating shifts are the funnels at every
count. The laws of the shifts, in numbers and bit by bit, are then those of `shlW` and `shrB` at width `D`. -/

namespace Sys2Proof

/-! ### The shifts of one pattern (R15) -/

theorem shlW_toNat {w : Nat} (x : BitVec w) (k : Nat) : (shlW x k).toNat = x.toNat * 2 ^ k % 2 ^ w :=
  BitVec.toNat_ofNat ..

@[simp] theorem shlW_zero {w : Nat} (x : BitVec w) : shlW x 0 = x := by
  simp [shlW]

theorem getLsbD_shlW {w : Nat} (x : BitVec w) (k i : Nat) :
    (shlW x k).getLsbD i = (decide (i < w) && decide (k ≤ i) && x.getLsbD (i - k)) := by
  rw [← BitVec.testBit_toNat, shlW_toNat, Nat.testBit_mod_two_pow, Nat.testBit_mul_two_pow, BitVec.testBit_toNat,
    Bool.and_assoc]

theorem shlW_of_width_le {w : Nat} (x : BitVec w) {k : Nat} (h : w ≤ k) : shlW x k = 0 :=
  BitVec.eq_of_toNat_eq ((shlW_toNat x k).trans (Nat.mod_eq_zero_of_dvd ((pow_dvd_pow 2 h).mul_left _)))

theorem shrU_eq_ushiftRight {w : Nat} (x : BitVec w) (k : Nat) : shrU x k = x >>> k := by
  rw [shrU, ← Nat.shiftRight_eq_div_pow, ← BitVec.toNat_ushiftRight, BitVec.ofNat_toNat, BitVec.setWidth_eq]

theorem getLsbD_shrU {w : Nat} (x : BitVec w) (k i : Nat) : (shrU x k).getLsbD i = x.getLsbD (k + i) := by
  rw [shrU_eq_ushiftRight, BitVec.getLsbD_ushiftRight]

theorem shrB_false {w : Nat} (x : BitVec w) (k : Nat) : shrB false x k = shrU x k := by
  rw [shrU, ← BitVec.ofInt_natCast]
  push_cast
  rfl

theorem shrB_true {w : Nat} (x : BitVec w) (k : Nat) : shrB true x k = x.sshiftRight k := by
  rw [BitVec.sshiftRight_eq, Int.shiftRight_eq_div_pow]
  push_cast
  rfl

@[simp] theorem shrB_zero (signed : Bool) {w : Nat} (x : BitVec w) : shrB signed x 0 = x := by
  simp [shrB]

/-- The vacated bits are copies of the sign in a signed unit, and zero in an unsigned one. -/
theorem getLsbD_shrB (signed : Bool) {w : Nat} (x : BitVec w) (k : Nat) {i : Nat} (hi : i < w) :
    (shrB signed x k).getLsbD i = if k + i < w then x.getLsbD (k + i) else signed && x.msb := by
  cases signed with
  | false =>
    rw [shrB_false, getLsbD_shrU]
    split
    case isTrue => rfl
    case isFalse hge => exact BitVec.getLsbD_of_ge _ _ (not_lt.mp hge)
  | true =>
    rw [shrB_true, BitVec.getLsbD_sshiftRight, decide_eq_false hi.not_ge, Bool.not_false, Bool.true_and, Bool.true_and]

/-- A right shift divides, rounding down. -/
theorem bval_shrB (signed : Bool) {w : Nat} (x : BitVec w) (k : Nat) :
    bval signed (shrB signed x k) = bval signed x / 2 ^ k := by
  cases signed with
  | false => simp [shrB_false, shrU_eq_ushiftRight, bval, Nat.shiftRight_eq_div_pow]
  | true => simp [shrB_true, bval, BitVec.toInt_sshiftRight, Int.shiftRight_eq_div_pow]

/-! ### The bits and the sign of a value -/

theorem Value.getLsbD_bits {w : Nat} (x : Value w) (k : Nat) :
    x.bits.getLsbD k = if k < w then x.low.getLsbD k else x.high.getLsbD (k - w) :=
  BitVec.getLsbD_append

theorem Value.signed_and_msb_bits (signed : Bool) {w : Nat} (x : Value w) :
    (signed && x.bits.msb) = x.isneg signed := by
  rcases w.eq_zero_or_pos with rfl | hw
  · simp [Value.isneg, BitVec.of_length_zero]
  · rw [Value.isneg, Value.bits, BitVec.msb_append, if_neg (by simpa using hw.ne')]

theorem Value.getLsbD_fill (signed : Bool) {w : Nat} (a : Value w) {i : Nat} (hi : i < w) :
    (a.fill signed).getLsbD i = a.isneg signed := by
  cases h : a.isneg signed <;> simp [Value.fill, h, hi]

/-- The sign fill is what a right shift by `W` or more leaves of the high limb (R105). -/
theorem Value.shrB_high_of_width_le (signed : Bool) {w : Nat} (a : Value w) {k : Nat} (hk : w ≤ k) :
    shrB signed a.high k = a.fill signed := by
  refine BitVec.eq_of_getLsbD_eq fun i hi => ?_
  rw [a.getLsbD_fill signed hi, getLsbD_shrB signed a.high k hi, if_neg (by omega), Value.isneg]

/-! ### Small amounts as values -/

/-- Every amount up to `D` fits the low limb. -/
theorem Config.D_lt_two_pow_W (c : Config) : c.D < 2 ^ c.W := by
  have hsmall : c.leaf + c.nest < 2 ^ (c.leaf + c.nest) := Nat.lt_two_pow_self
  rw [Config.D, Config.W, ← Nat.pow_succ']
  refine Nat.pow_lt_pow_right one_lt_two ?_
  rw [Nat.add_assoc, Nat.pow_add]
  omega

theorem Value.val_ofPair_zero (signed : Bool) {w n : Nat} (h : n < 2 ^ w) :
    (Value.ofPair w ⟨0, n⟩).val signed = n := by
  simp [Value.val, Value.ofPair, bval, Nat.mod_eq_of_lt h]

theorem Value.pack_natCast {w n : Nat} (h : n < 2 ^ w) : Value.pack w n = Value.ofPair w ⟨0, n⟩ := by
  have hdiv : (n : Int) / 2 ^ w = 0 := Int.ediv_eq_zero_of_lt (Int.natCast_nonneg n) (by exact_mod_cast h)
  simp [Value.pack, Value.ofPair, hdiv]

end Sys2Proof

namespace Sys2Proof.Machine

/-! ### The funnels (R106, R107): the limb boundary is no case of its own -/

@[simp] theorem funnelLeft_zero {w : Nat} (a : Value w) : funnelLeft a 0 = a := rfl

theorem funnelLeft_of_lt {w m : Nat} (a : Value w) (h0 : 0 < m) (h : m < w) :
    funnelLeft a m = ⟨shlW a.high m ||| shrU a.low (w - m), shlW a.low m⟩ := by
  rw [funnelLeft, if_neg h0.ne', if_pos h]

theorem funnelLeft_of_width_le {w m : Nat} (a : Value w) (h0 : 0 < m) (h : w ≤ m) :
    funnelLeft a m = ⟨shlW a.low (m - w), 0⟩ := by
  rw [funnelLeft, if_neg h0.ne', if_neg h.not_gt]
  split
  case isTrue hm => rw [hm, Nat.sub_self, shlW_zero]
  case isFalse => rfl

@[simp] theorem funnelRight_zero (signed : Bool) {w : Nat} (a : Value w) : funnelRight signed a 0 = a := rfl

theorem funnelRight_of_lt (signed : Bool) {w m : Nat} (a : Value w) (h0 : 0 < m) (h : m < w) :
    funnelRight signed a m = ⟨shrB signed a.high m, shrU a.low m ||| shlW a.high (w - m)⟩ := by
  rw [funnelRight, if_neg h0.ne', if_pos h]

theorem funnelRight_of_width_le (signed : Bool) {w m : Nat} (a : Value w) (h0 : 0 < m) (h : w ≤ m) :
    funnelRight signed a m = ⟨a.fill signed, shrB signed a.high (m - w)⟩ := by
  rw [funnelRight, if_neg h0.ne', if_neg h.not_gt]
  split
  case isTrue hm => rw [hm, Nat.sub_self, shrB_zero]
  case isFalse => rfl

/-- A bit of the result comes from `m` places lower: from its own limb, or across the limb boundary. -/
theorem bits_funnelLeft {w : Nat} (a : Value w) (m : Nat) : (funnelLeft a m).bits = shlW a.bits m := by
  rcases m.eq_zero_or_pos with rfl | h0
  · rw [funnelLeft_zero, shlW_zero]
  · refine BitVec.eq_of_getLsbD_eq fun i hi => ?_
    rw [getLsbD_shlW, Value.getLsbD_bits, Value.getLsbD_bits]
    rcases lt_or_ge m w with hm | hm
    · rw [funnelLeft_of_lt a h0 hm]
      grind [getLsbD_shlW, getLsbD_shrU]
    · rw [funnelLeft_of_width_le a h0 hm]
      grind [getLsbD_shlW]

/-- A bit of the result comes from `m` places higher, or is the sign. -/
theorem bits_funnelRight (signed : Bool) {w : Nat} (a : Value w) (m : Nat) :
    (funnelRight signed a m).bits = shrB signed a.bits m := by
  rcases m.eq_zero_or_pos with rfl | h0
  · rw [funnelRight_zero, shrB_zero]
  · refine BitVec.eq_of_getLsbD_eq fun i hi => ?_
    rw [getLsbD_shrB _ _ _ hi, Value.signed_and_msb_bits, Value.getLsbD_bits, Value.getLsbD_bits]
    rcases lt_or_ge m w with hm | hm
    · rw [funnelRight_of_lt signed a h0 hm]
      grind [getLsbD_shlW, getLsbD_shrU, getLsbD_shrB, Value.isneg]
    · rw [funnelRight_of_width_le signed a h0 hm]
      grind [getLsbD_shrB, Value.getLsbD_fill, Value.isneg]

theorem unsigned_funnelLeft {w : Nat} (a : Value w) (m : Nat) :
    (funnelLeft a m).unsigned = a.unsigned * 2 ^ m % 2 ^ (2 * w) := by
  rw [← Value.bits_toNat, bits_funnelLeft, shlW_toNat, Value.bits_toNat, two_mul]

theorem val_funnelRight (signed : Bool) {w : Nat} (a : Value w) (m : Nat) :
    (funnelRight signed a m).val signed = a.val signed / 2 ^ m := by
  rw [Value.val_eq_bval_bits, bits_funnelRight, bval_shrB, Value.val_eq_bval_bits]

/-! ### The saturating shifts are the funnels at every count (R108, R109) -/

theorem satLeft_eq_funnelLeft {w : Nat} (hw : 0 < w) (a : Value w) (k : Nat) : satLeft a k = funnelLeft a k := by
  rw [satLeft]
  split_ifs with hevicted hboundary
  · rw [funnelLeft_of_width_le a (by omega) (by omega), shlW_of_width_le a.low (by omega), Value.zero]
  · rw [hboundary, funnelLeft_of_width_le a hw le_rfl, Nat.sub_self, shlW_zero]
  · rfl

theorem satRight_eq_funnelRight (signed : Bool) {w : Nat} (hw : 0 < w) (a : Value w) (k : Nat) :
    satRight signed a k = funnelRight signed a k := by
  rw [satRight]
  split_ifs with hevicted hboundary
  · rw [funnelRight_of_width_le signed a (by omega) (by omega), a.shrB_high_of_width_le signed (by omega)]
  · rw [hboundary, funnelRight_of_width_le signed a hw le_rfl, Nat.sub_self, shrB_zero]
  · rfl

/-! ### The amount of a shift (R105) -/

section
variable {signed : Bool} {w : Nat} {n : Int}

theorem shiftLeft_of_nonneg (hw : 0 < w) (hn : 0 ≤ n) (a : Value w) :
    shiftLeft signed a n = funnelLeft a n.toNat := by
  have habs : n.natAbs = n.toNat := by omega
  rw [shiftLeft, if_pos hn, habs, satLeft_eq_funnelLeft hw]

theorem shiftLeft_of_neg (hw : 0 < w) (hn : n < 0) (a : Value w) :
    shiftLeft signed a n = funnelRight signed a (-n).toNat := by
  have habs : n.natAbs = (-n).toNat := by omega
  rw [shiftLeft, if_neg hn.not_ge, habs, satRight_eq_funnelRight signed hw]

theorem shiftRight_of_nonneg (hw : 0 < w) (hn : 0 ≤ n) (a : Value w) :
    shiftRight signed a n = funnelRight signed a n.toNat := by
  have habs : n.natAbs = n.toNat := by omega
  rw [shiftRight, if_pos hn, habs, satRight_eq_funnelRight signed hw]

theorem shiftRight_of_neg (hw : 0 < w) (hn : n < 0) (a : Value w) :
    shiftRight signed a n = funnelLeft a (-n).toNat := by
  have habs : n.natAbs = (-n).toNat := by omega
  rw [shiftRight, if_neg hn.not_ge, habs, satLeft_eq_funnelLeft hw]

end

/-- The masked bits are the amount modulo `D` whatever the signedness: `D` divides `2^D`. -/
theorem maskedAmount_eq_val_emod_D (c : Config) (x : Value c.W) : (maskedAmount x : Int) = x.val c.signed % c.D := by
  rw [maskedAmount, Value.unsigned_emod c.signed (Nat.log2_le_self _), ← c.two_pow_log2_D, Nat.cast_pow, Nat.cast_ofNat]

/-! ### The answers -/

theorem exec_shl {s : State} (h : s.fault = false) (a : Pair) {b : Pair} {n : Int}
    (hn : (s.operand b).val s.cfg.signed = n) :
    exec (.shl a b) s = .next (s.answered (shiftLeft s.cfg.signed (s.operand a) n) ⟨0, 0⟩ false) := by
  subst hn
  exact congrArg _ (State.perform_plain_eq_answered h _)

theorem exec_shr {s : State} (h : s.fault = false) (a : Pair) {b : Pair} {n : Int}
    (hn : (s.operand b).val s.cfg.signed = n) :
    exec (.shr a b) s = .next (s.answered (shiftRight s.cfg.signed (s.operand a) n) ⟨0, 0⟩ false) := by
  subst hn
  exact congrArg _ (State.perform_plain_eq_answered h _)

/-- A wrapping shift is the saturating one by any amount that reads as the masked bits. -/
theorem exec_wrapping_eq_saturating {s : State} {b b' : Pair}
    (h : (s.operand b').val s.cfg.signed = maskedAmount (s.operand b)) (a : Pair) :
    exec (.wshl a b) s = exec (.shl a b') s ∧ exec (.wshr a b) s = exec (.shr a b') s := by
  have hleft := shiftLeft_of_nonneg (signed := s.cfg.signed) s.cfg.W_pos (Int.natCast_nonneg (maskedAmount (s.operand b)))
    (s.operand a)
  have hright := shiftRight_of_nonneg (signed := s.cfg.signed) s.cfg.W_pos
    (Int.natCast_nonneg (maskedAmount (s.operand b))) (s.operand a)
  simp only [exec, execWshl, execShl, execWshr, execShr, h, hleft, hright, Int.toNat_natCast, and_self]

/-- Settles O51: the laws of the funnels at the masked amount. -/
theorem wrappingShiftsMultiplyAndDivide : Obligations.WrappingShiftsMultiplyAndDivide := by
  intro s a b hfault m
  have hm : maskedAmount (s.operand b) = m :=
    congrArg Int.toNat (maskedAmount_eq_val_emod_D s.cfg (s.operand b))
  have hanswer := State.perform_plain_eq_answered hfault
  exact ⟨rfl, rfl, _, _, congrArg _ (hanswer _), congrArg _ (hanswer _), hm ▸ unsigned_funnelLeft _ _,
    hm ▸ val_funnelRight _ _ _⟩

/-- Settles O52: by the sign of the amount, each shift is one of the funnels at its magnitude. -/
theorem saturatingShiftsMultiplyAndDivide : Obligations.SaturatingShiftsMultiplyAndDivide := by
  intro s a b hfault n
  have hw := s.cfg.W_pos
  refine ⟨rfl, rfl, _, _, exec_shl hfault a rfl, exec_shr hfault a rfl, fun hn => ?_, fun hn => ?_⟩
  · rw [shiftLeft_of_nonneg hw hn, shiftRight_of_nonneg hw hn]
    exact ⟨unsigned_funnelLeft _ _, val_funnelRight _ _ _⟩
  · rw [shiftLeft_of_neg hw hn, shiftRight_of_neg hw hn]
    exact ⟨val_funnelRight _ _ _, unsigned_funnelLeft _ _⟩

/-- Settles O53: `(0, m)` reads as `m`, and an amount in `[0, D)` is its own masked amount. -/
theorem wrappingShiftIsTheShiftOfTheMaskedAmount : Obligations.WrappingShiftIsTheShiftOfTheMaskedAmount := by
  intro s a b m
  have hm : m < s.cfg.D := Nat.mod_lt _ (Nat.mul_pos two_pos s.cfg.W_pos)
  have hmasked : (s.operand ⟨0, m⟩).val s.cfg.signed = maskedAmount (s.operand b) := by
    rw [maskedAmount_eq_mod_D]
    exact Value.val_ofPair_zero s.cfg.signed (hm.trans s.cfg.D_lt_two_pow_W)
  obtain ⟨hleft, hright⟩ := exec_wrapping_eq_saturating hmasked a
  refine ⟨hleft, hright, fun hmin hmax => exec_wrapping_eq_saturating ?_ a⟩
  rw [maskedAmount_eq_val_emod_D, Int.emod_eq_of_lt hmin hmax]

/-- The bits not evicted come back; the others are copies of the top bit of the value shifted left (R111). -/
theorem testBit_funnelRight_funnelLeft (signed : Bool) {w : Nat} (a : Value w) (n : Nat) {k : Nat} (hk : k < 2 * w) :
    (funnelRight signed (funnelLeft a n) n).unsigned.testBit k =
      if n + k < 2 * w then a.unsigned.testBit k
      else signed && decide (0 < n ∧ n < 2 * w) && a.unsigned.testBit (2 * w - 1 - n) := by
  rw [two_mul] at hk ⊢
  simp only [← Value.bits_toNat, BitVec.testBit_toNat]
  rw [bits_funnelRight, bits_funnelLeft, getLsbD_shrB _ _ _ hk, BitVec.msb_eq_getLsbD_last, getLsbD_shlW, getLsbD_shlW]
  split
  case isTrue hkept => simp [hkept]
  case isFalse hevicted =>
    have hpos : 0 < n := by omega
    have htop : w + w - 1 < w + w := by omega
    have hsign : n ≤ w + w - 1 ↔ n < w + w := by omega
    simp only [hpos, htop, hsign, decide_true, true_and, Bool.true_and, Bool.and_assoc]

/-- Settles O54: the amount reads as `n`, so the answers are the two funnels at `n`. -/
theorem shiftLeftThenRight : Obligations.ShiftLeftThenRight := by
  intro s a n hfault hn p u
  have hnW : n < 2 ^ s.cfg.W := hn.trans_lt s.cfg.D_lt_two_pow_W
  have hp : (s.operand p).val s.cfg.signed = n := by
    rw [s.operand_toPair, Value.pack_natCast hnW, Value.val_ofPair_zero _ hnW]
  refine ⟨_, _, exec_shl hfault a hp, exec_shr hfault _ hp, ?_⟩
  rw [Config.D, s.operand_toPair, shiftLeft_of_nonneg s.cfg.W_pos (Int.natCast_nonneg n),
    shiftRight_of_nonneg s.cfg.W_pos (Int.natCast_nonneg n), Int.toNat_natCast]
  have hbit := fun k => testBit_funnelRight_funnelLeft s.cfg.signed (s.operand a) n (k := k)
  exact ⟨fun k hk => (hbit k (by omega)).trans (if_pos (by omega)),
    fun k hmin hmax => (hbit k hmax).trans (if_neg (by omega))⟩

end Sys2Proof.Machine
end

section
/-! The three counters (46_introspection.md R115 to R118). Each count of a value is the count of its `D` bits: the significant bits,
the powers of two that divide the number, and the one bits, put together from those of its limbs. -/

namespace Sys2Proof

/-! ### The counts of one limb (R15) -/

theorem size_eq_log2_add_one {x : Nat} (h : x ≠ 0) : x.size = Nat.log2 x + 1 :=
  le_antisymm (Nat.size_le.mpr Nat.lt_log2_self) (Nat.lt_size.mpr (Nat.log2_self_le h))

theorem lzcW_add_size {w : Nat} (x : BitVec w) : lzcW x + x.toNat.size = w :=
  lzcN_add_size x.isLt

theorem tzcN_le (n x : Nat) : tzcN n x ≤ n := by
  induction n generalizing x with
  | zero => exact le_rfl
  | succ n ih =>
    have hhalf := ih (x / 2)
    rw [tzcN]
    split <;> omega

/-- Up to the width, the powers of two that divide a number are those up to its trailing zeros. -/
theorem two_pow_dvd_iff_le_tzcN {n k : Nat} (hk : k ≤ n) (x : Nat) : 2 ^ k ∣ x ↔ k ≤ tzcN n x := by
  induction n generalizing k x with
  | zero => simp [Nat.le_zero.mp hk]
  | succ n ih =>
    obtain _ | k := k
    · simp
    rw [tzcN]
    split
    case isTrue hodd =>
      have hndvd : ¬ 2 ∣ x := by simpa [Nat.two_dvd_ne_zero] using hodd
      exact iff_of_false (fun h => hndvd (dvd_of_mul_left_dvd h)) (by omega)
    case isFalse heven =>
      have hdvd : 2 ∣ x := by simpa [Nat.dvd_iff_mod_eq_zero] using heven
      calc 2 ^ (k + 1) ∣ x ↔ 2 * 2 ^ k ∣ 2 * (x / 2) := by rw [Nat.mul_div_cancel' hdvd, Nat.pow_succ']
        _ ↔ 2 ^ k ∣ x / 2 := Nat.mul_dvd_mul_iff_left two_pos
        _ ↔ k ≤ tzcN n (x / 2) := ih (by omega) _
        _ ↔ k + 1 ≤ 1 + tzcN n (x / 2) := by omega

theorem tzcW_lt {w : Nat} {x : BitVec w} (h : x ≠ 0) : tzcW x < w := by
  have hpos : 0 < x.toNat := Nat.pos_of_ne_zero fun h0 => h (BitVec.eq_of_toNat_eq h0)
  exact not_le.mp fun hle => Nat.not_dvd_of_pos_of_lt hpos x.isLt ((two_pow_dvd_iff_le_tzcN le_rfl _).mpr hle)

theorem popN_eq_countP (n x : Nat) : popN n x = (List.range n).countP (fun k => x.testBit k) := by
  induction n generalizing x with
  | zero => rfl
  | succ n ih =>
    have hbit : x % 2 = if x.testBit 0 then 1 else 0 := by
      rw [Nat.testBit_zero]
      rcases Nat.mod_two_eq_zero_or_one x with h | h <;> simp [h]
    rw [popN, ih, List.range_succ_eq_map, List.countP_cons, List.countP_map, hbit, Nat.add_comm]
    simp only [Function.comp_def, Nat.succ_eq_add_one, Nat.testBit_add_one]

/-! ### A value by its limbs -/

theorem Value.unsigned_of_high_zero {w : Nat} {a : Value w} (h : a.high = 0) : a.unsigned = a.low.toNat := by
  simp [Value.unsigned, h]

theorem Value.unsigned_of_low_zero {w : Nat} {a : Value w} (h : a.low = 0) : a.unsigned = 2 ^ w * a.high.toNat := by
  simp [Value.unsigned, h, Nat.mul_comm]

theorem Value.unsigned_div_two_pow {w : Nat} (a : Value w) : a.unsigned / 2 ^ w = a.high.toNat := by
  rw [Value.unsigned, Nat.mul_comm, Nat.mul_add_div (Nat.two_pow_pos w), Nat.div_eq_of_lt a.low.isLt, Nat.add_zero]

theorem Value.unsigned_mod_two_pow {w : Nat} (a : Value w) : a.unsigned % 2 ^ w = a.low.toNat := by
  rw [Value.unsigned, Nat.mul_comm, Nat.mul_add_mod, Nat.mod_eq_of_lt a.low.isLt]

theorem Value.size_unsigned {w : Nat} {a : Value w} (h : a.high ≠ 0) : a.unsigned.size = a.high.toNat.size + w := by
  have hhigh : a.high.toNat ≠ 0 := fun h0 => h (BitVec.eq_of_toNat_eq h0)
  have hdiv : a.unsigned / 2 ^ w = a.high.toNat := a.unsigned_div_two_pow
  have hle : 2 ^ w ≤ a.unsigned := (Nat.div_pos_iff.mp (hdiv ▸ Nat.pos_of_ne_zero hhigh)).2
  have hne : a.unsigned ≠ 0 := ((Nat.two_pow_pos w).trans_le hle).ne'
  have hlog : Nat.log2 a.high.toNat = Nat.log2 a.unsigned - w := by
    rw [Nat.log2_eq_log_two, Nat.log2_eq_log_two, ← hdiv, Nat.log_div_base_pow]
  have hw : w ≤ Nat.log2 a.unsigned := (Nat.le_log2 hne).mpr hle
  rw [size_eq_log2_add_one hne, size_eq_log2_add_one hhigh]
  omega

/-- A count fits the low limb (R115). -/
theorem Config.toNat_ofNat_of_le_D (c : Config) {n : Nat} (h : n ≤ c.D) : (BitVec.ofNat c.W n).toNat = n := by
  rw [BitVec.toNat_ofNat, Nat.mod_eq_of_lt (h.trans_lt c.D_lt_two_pow_W)]

end Sys2Proof

namespace Sys2Proof.Machine

/-! ### The counts of a value -/

/-- The `D` bits of a value are its leading zeros and its significant bits. -/
theorem leadingZeros_add_size {w : Nat} (a : Value w) : leadingZeros a + a.unsigned.size = 2 * w := by
  rw [leadingZeros]
  split
  case isTrue hzero =>
    have hlow := lzcW_add_size a.low
    rw [Value.unsigned_of_high_zero hzero]
    omega
  case isFalse hhigh =>
    have hlimb := lzcW_add_size a.high
    rw [Value.size_unsigned hhigh]
    omega

theorem leadingZeros_eq {w : Nat} (a : Value w) :
    leadingZeros a = if a.unsigned = 0 then 2 * w else 2 * w - 1 - Nat.log2 a.unsigned := by
  have hsum := leadingZeros_add_size a
  split
  case isTrue hzero => rwa [hzero, Nat.size_zero] at hsum
  case isFalse hne =>
    rw [size_eq_log2_add_one hne] at hsum
    omega

theorem trailingZeros_le {w : Nat} (a : Value w) : trailingZeros a ≤ 2 * w := by
  have hlow : tzcW a.low ≤ w := tzcN_le w _
  have hhigh : tzcW a.high ≤ w := tzcN_le w _
  rw [trailingZeros]
  split <;> omega

/-- Up to `D`, the powers of two that divide a value are those up to its trailing zeros. -/
theorem two_pow_dvd_iff_le_trailingZeros {w k : Nat} (hk : k ≤ 2 * w) (a : Value w) :
    2 ^ k ∣ a.unsigned ↔ k ≤ trailingZeros a := by
  rw [trailingZeros]
  split
  case isTrue hzero =>
    rw [Value.unsigned_of_low_zero hzero]
    rcases le_total k w with hkw | hwk
    · exact iff_of_true ((pow_dvd_pow 2 hkw).mul_right _) (by omega)
    · obtain ⟨j, rfl⟩ := Nat.exists_eq_add_of_le hwk
      rw [pow_add, Nat.mul_dvd_mul_iff_left (Nat.two_pow_pos w), two_pow_dvd_iff_le_tzcN (n := w) (by omega),
        Nat.add_le_add_iff_left, tzcW]
  case isFalse hlow =>
    have hdvd {j : Nat} (hj : j ≤ w) : 2 ^ j ∣ a.unsigned ↔ j ≤ tzcW a.low :=
      (Nat.dvd_add_right ((pow_dvd_pow 2 hj).mul_left _)).trans (two_pow_dvd_iff_le_tzcN hj _)
    have hlt : tzcW a.low < w := tzcW_lt hlow
    rcases le_total k w with hkw | hwk
    · exact hdvd hkw
    · exact iff_of_false (fun h => hlt.not_ge ((hdvd le_rfl).mp ((pow_dvd_pow 2 hwk).trans h))) (by omega)

theorem trailingZeros_of_zero {w : Nat} {a : Value w} (h : a.unsigned = 0) : trailingZeros a = 2 * w :=
  (trailingZeros_le a).antisymm ((two_pow_dvd_iff_le_trailingZeros le_rfl a).mp (h ▸ dvd_zero _))

theorem trailingZeros_maximal {w : Nat} {a : Value w} (h : a.unsigned ≠ 0) :
    2 ^ trailingZeros a ∣ a.unsigned ∧ ¬ 2 ^ (trailingZeros a + 1) ∣ a.unsigned := by
  refine ⟨(two_pow_dvd_iff_le_trailingZeros (trailingZeros_le a) a).mpr le_rfl, fun hdvd => ?_⟩
  have hlt : trailingZeros a + 1 < 2 * w :=
    (Nat.pow_lt_pow_iff_right one_lt_two).mp ((Nat.le_of_dvd (Nat.pos_of_ne_zero h) hdvd).trans_lt a.unsigned_lt)
  have := (two_pow_dvd_iff_le_trailingZeros hlt.le a).mp hdvd
  omega

theorem population_eq_countP {w : Nat} (a : Value w) :
    population a = (List.range (2 * w)).countP (fun k => a.unsigned.testBit k) := by
  rw [population, popW, popW, popN_eq_countP, popN_eq_countP, two_mul, List.range_add, List.countP_append,
    List.countP_map, Nat.add_comm]
  congr 1
  · refine List.countP_congr fun k hk => ?_
    rw [Value.testBit_unsigned, if_pos (List.mem_range.mp hk), BitVec.testBit_toNat]
  · refine List.countP_congr fun k _ => ?_
    rw [Function.comp_apply, Value.testBit_unsigned, if_neg (by omega), Nat.add_sub_cancel_left, BitVec.testBit_toNat]

theorem population_le {w : Nat} (a : Value w) : population a ≤ 2 * w := by
  rw [population_eq_countP]
  exact List.countP_le_length.trans_eq List.length_range

/-- Settles O55: the counters answer the counts of the value, which are at most `D`. -/
theorem countersCount : Obligations.CountersCount := by
  intro s a hfault u
  have hanswer := fun n => State.perform_plain_eq_answered hfault (Value.count s.cfg.W n)
  have hl : leadingZeros (s.operand a) ≤ s.cfg.D := Nat.le.intro (leadingZeros_add_size _)
  have ht : trailingZeros (s.operand a) ≤ s.cfg.D := trailingZeros_le _
  have hp : population (s.operand a) ≤ s.cfg.D := population_le _
  refine ⟨rfl, rfl, rfl, _, _, _, congrArg _ (hanswer _), congrArg _ (hanswer _), congrArg _ (hanswer _), ?_⟩
  rw [s.cfg.toNat_ofNat_of_le_D hl, s.cfg.toNat_ofNat_of_le_D ht, s.cfg.toNat_ofNat_of_le_D hp]
  exact ⟨leadingZeros_eq _, trailingZeros_of_zero, trailingZeros_maximal, population_eq_countP _⟩

end Sys2Proof.Machine
end

section
/-! BSWAP (46_introspection.md R119). Each limb is reversed by `bswW` and the limbs exchange their places, so byte `k` of the result
is byte `D/8 - 1 - k`; that reversing twice restores the value follows, since a value is determined by its bytes. -/

namespace Sys2Proof

/-! ### The bytes of a number -/

/-- Byte `k` of a number: what `Value.byte` takes of the unsigned reading. -/
def byteOf (x k : Nat) : Nat := x / 2 ^ (8 * k) % 2 ^ 8

theorem testBit_byteOf (x k : Nat) {i : Nat} (hi : i < 8) : (byteOf x k).testBit i = x.testBit (8 * k + i) := by
  rw [byteOf, Nat.testBit_mod_two_pow, Nat.testBit_div_two_pow, decide_eq_true hi, Bool.true_and, Nat.add_comm]

theorem eq_of_byteOf_eq {x y : Nat} (h : ∀ k, byteOf x k = byteOf y k) : x = y := by
  refine Nat.eq_of_testBit_eq fun i => ?_
  have hi : i % 8 < 8 := Nat.mod_lt _ (by decide)
  rw [← Nat.div_add_mod i 8, ← testBit_byteOf x _ hi, ← testBit_byteOf y _ hi, h]

theorem byteOf_of_lt {x m k : Nat} (hx : x < 2 ^ (8 * m)) (hk : m ≤ k) : byteOf x k = 0 := by
  have hpow : 2 ^ (8 * m) ≤ 2 ^ (8 * k) := pow_le_pow_right₀ one_le_two (by omega)
  rw [byteOf, Nat.div_eq_of_lt (hx.trans_le hpow), Nat.zero_mod]

theorem byteOf_mod (x : Nat) {m k : Nat} (hk : k < m) : byteOf (x % 2 ^ (8 * m)) k = byteOf x k := by
  have hpow : 2 ^ (8 * m) = 2 ^ (8 * k) * 2 ^ (8 * (m - k)) := by rw [← pow_add, ← Nat.mul_add, Nat.add_sub_cancel' hk.le]
  rw [byteOf, hpow, Nat.mod_mul_right_div_self, Nat.mod_mod_of_dvd _ (pow_dvd_pow 2 (by omega)), byteOf]

theorem byteOf_div (x m k : Nat) : byteOf (x / 2 ^ (8 * m)) k = byteOf x (m + k) := by
  rw [byteOf, Nat.div_div_eq_div_mul, ← pow_add, ← Nat.mul_add, byteOf]

/-! ### A limb reversed (R15) -/

/-- The lowest byte goes on top of the others, reversed. -/
theorem bswN_succ (m x : Nat) : bswN (m + 1) x = 2 ^ (8 * m) * byteOf x 0 + bswN m (x / 2 ^ (8 * 1)) := by
  have hpow : 2 ^ (8 * m) = 256 ^ m := pow_mul 2 8 m
  rw [bswN, byteOf, hpow, Nat.mul_zero, pow_zero, Nat.div_one, Nat.mul_comm]
  rfl

theorem bswN_lt (m x : Nat) : bswN m x < 2 ^ (8 * m) := by
  induction m generalizing x with
  | zero => exact one_pos
  | succ m ih =>
    have hbyte : byteOf x 0 < 2 ^ 8 := Nat.mod_lt _ (by decide)
    calc bswN (m + 1) x < 2 ^ (8 * m) * byteOf x 0 + 2 ^ (8 * m) := by rw [bswN_succ]; exact Nat.add_lt_add_left (ih _) _
      _ = 2 ^ (8 * m) * (byteOf x 0 + 1) := rfl
      _ ≤ 2 ^ (8 * m) * 2 ^ 8 := Nat.mul_le_mul_left _ hbyte
      _ = 2 ^ (8 * (m + 1)) := by rw [Nat.mul_succ, pow_add]

theorem byteOf_bswN {m k : Nat} (hk : k < m) (x : Nat) : byteOf (bswN m x) k = byteOf x (m - 1 - k) := by
  induction m generalizing k x with
  | zero => omega
  | succ m ih =>
    have hrest := bswN_lt m (x / 2 ^ (8 * 1))
    rcases Nat.lt_succ_iff_lt_or_eq.mp hk with hlt | rfl
    · have hidx : m + 1 - 1 - k = 1 + (m - 1 - k) := by omega
      rw [← byteOf_mod _ hlt, bswN_succ, Nat.mul_add_mod, Nat.mod_eq_of_lt hrest, ih hlt, byteOf_div, hidx]
    · have htop : bswN (k + 1) x / 2 ^ (8 * k) = byteOf x 0 := by
        rw [bswN_succ, Nat.mul_add_div (Nat.two_pow_pos _), Nat.div_eq_of_lt hrest, Nat.add_zero]
      calc byteOf (bswN (k + 1) x) k = byteOf (byteOf x 0) 0 := by rw [← htop, byteOf_div, Nat.add_zero k]
        _ = byteOf x 0 := by simp [byteOf]
        _ = byteOf x (k + 1 - 1 - k) := by rw [Nat.add_sub_cancel, Nat.sub_self]

theorem byteOf_bswW {m w k : Nat} (hw : w = 8 * m) (hk : k < m) (x : BitVec w) :
    byteOf (bswW x).toNat k = byteOf x.toNat (m - 1 - k) := by
  subst hw
  rw [bswW, Nat.mul_div_cancel_left m (by decide), BitVec.toNat_ofNat, Nat.mod_eq_of_lt (bswN_lt m _), byteOf_bswN hk]

/-! ### The bytes of a value -/

theorem Value.byte_eq_byteOf {w : Nat} (x : Value w) (k : Nat) : x.byte k = byteOf x.unsigned k := rfl

theorem Value.byte_low {m w k : Nat} (hw : w = 8 * m) (hk : k < m) (x : Value w) : x.byte k = byteOf x.low.toNat k := by
  subst hw
  rw [← x.unsigned_mod_two_pow, byteOf_mod _ hk, Value.byte_eq_byteOf]

theorem Value.byte_high {m w : Nat} (hw : w = 8 * m) (k : Nat) (x : Value w) :
    x.byte (m + k) = byteOf x.high.toNat k := by
  subst hw
  rw [← x.unsigned_div_two_pow, byteOf_div, Value.byte_eq_byteOf]

theorem Value.byte_of_le {m w k : Nat} (hw : w = 8 * m) (hk : 2 * m ≤ k) (x : Value w) : x.byte k = 0 :=
  byteOf_of_lt (x.unsigned_lt.trans_eq (congrArg (2 ^ ·) (by omega))) hk

theorem Value.eq_of_byte_eq {w : Nat} {x y : Value w} (h : ∀ k, x.byte k = y.byte k) : x = y :=
  Value.eq_of_unsigned_eq (eq_of_byteOf_eq h)

theorem Config.W_eq_eight_mul (c : Config) : c.W = 8 * 2 ^ (c.leaf + c.nest) := by
  rw [Config.W, Nat.add_assoc, pow_add]
  rfl

end Sys2Proof

namespace Sys2Proof.Machine

section
variable {m w : Nat} (hw : w = 8 * m) (a : Value w)
include hw

/-- Byte `k` comes from the other limb, which `bswW` has reversed. -/
theorem byte_byteSwap {k : Nat} (hk : k < 2 * m) : (byteSwap a).byte k = a.byte (2 * m - 1 - k) := by
  rcases lt_or_ge k m with hlow | hhigh
  · have hidx : 2 * m - 1 - k = m + (m - 1 - k) := by omega
    rw [hidx, Value.byte_low hw hlow, Value.byte_high hw, byteSwap, byteOf_bswW hw hlow]
  · obtain ⟨j, rfl⟩ := Nat.exists_eq_add_of_le hhigh
    have hidx : 2 * m - 1 - (m + j) = m - 1 - j := by omega
    rw [hidx, Value.byte_high hw, Value.byte_low hw (by omega), byteSwap, byteOf_bswW hw (by omega)]

theorem byteSwap_byteSwap : byteSwap (byteSwap a) = a := by
  refine Value.eq_of_byte_eq fun k => ?_
  rcases lt_or_ge k (2 * m) with hk | hk
  · have hidx : 2 * m - 1 - (2 * m - 1 - k) = k := by omega
    rw [byte_byteSwap hw _ hk, byte_byteSwap hw _ (by omega), hidx]
  · rw [Value.byte_of_le hw hk, Value.byte_of_le hw hk]

end

/-- Settles O56: `W` is a multiple of 8, so the bytes of the value are those of its limbs. -/
theorem byteSwapReversesTheBytes : Obligations.ByteSwapReversesTheBytes := by
  intro s a hfault
  have hanswer := State.perform_plain_eq_answered hfault
  have hbytes : s.cfg.D / 8 = 2 * 2 ^ (s.cfg.leaf + s.cfg.nest) := by
    rw [Config.D, s.cfg.W_eq_eight_mul]
    omega
  refine ⟨rfl, _, congrArg _ (hanswer _), fun k hk => ?_, ?_⟩
  · rw [hbytes] at hk ⊢
    exact byte_byteSwap s.cfg.W_eq_eight_mul _ hk
  · rw [exec, execBswap, s.operand_toPair, byteSwap_byteSwap s.cfg.W_eq_eight_mul, hanswer]

end Sys2Proof.Machine
end

section
/-! WORD (46_introspection.md R120 to R122). Which effect it has is a condition on the widths, then on the index. A native width that
divides `W` cuts the `D` bits into `D/N` words; one above `W` that `W` divides is at least `D`, so its one word extends the value. -/

namespace Sys2Proof.Machine

/-! ### The effects of WORD, in the order of its tests -/

theorem wordSupported_iff {n w : Nat} : wordSupported n w = true ↔ n ∣ w ∨ w ∣ n := by
  simp [wordSupported]

theorem wordCount_of_lt {n w : Nat} (h : w < n) : wordCount n w = 1 := if_pos h

theorem wordCount_of_le {n w : Nat} (h : n ≤ w) : wordCount n w = 2 * w / n := if_neg h.not_gt

section
variable {signed : Bool} {n w : Nat} {a b : Value w}

theorem wordExtract_of_unsupported (h : ¬ (n ∣ w ∨ w ∣ n)) : wordExtract signed n a b = .trap .wordcfg := by
  rw [← wordSupported_iff, Bool.not_eq_true] at h
  simp [wordExtract, h]

theorem wordExtract_of_count_le (h : n ∣ w ∨ w ∣ n) (hi : wordCount n w ≤ b.unsigned) :
    wordExtract signed n a b = .trap .wordidx := by
  rw [← wordSupported_iff] at h
  simp [wordExtract, h, hi]

theorem wordExtract_of_lt_count (h : n ∣ w ∨ w ∣ n) (hi : b.unsigned < wordCount n w) :
    wordExtract signed n a b = plain (Value.packu w (wordAt signed n a b.unsigned).toNat) := by
  rw [← wordSupported_iff] at h
  simp [wordExtract, h, hi.not_ge]

/-! ### The word -/

theorem wordAt_of_le (h : n ≤ w) (i : Nat) :
    (wordAt signed n a i).toNat = a.unsigned / 2 ^ (n * i) % 2 ^ n := by
  rw [wordAt, if_neg h.not_gt, BitVec.toNat_ofNat]

theorem wordAt_of_lt (h : w < n) (i : Nat) :
    wordAt signed n a i = if signed then a.bits.signExtend n else a.bits.setWidth n := if_pos h

end

/-- A word wider than the value is the value, extended by its sign in a signed unit (R120, G1). -/
theorem bval_wordAt (signed : Bool) {n w : Nat} (hw : w < n) (h : w + w ≤ n) (a : Value w) (i : Nat) :
    bval signed (wordAt signed n a i) = a.val signed := by
  rw [wordAt_of_lt hw, Value.val_eq_bval_bits]
  cases signed with
  | false => simp [bval, BitVec.toNat_setWidth_of_le h]
  | true => simp [bval, BitVec.toInt_signExtend_of_le h]

/-- Its low `D` bits are those of the value, whichever way it is extended. -/
theorem packu_wordAt (signed : Bool) {n w : Nat} (hw : w < n) (h : w + w ≤ n) (a : Value w) (i : Nat) :
    Value.packu w (wordAt signed n a i).toNat = a := by
  have hlow : (wordAt signed n a i).setWidth (w + w) = a.bits := by
    refine BitVec.eq_of_getLsbD_eq fun k hk => ?_
    have hkn : k < n := hk.trans_le h
    rw [wordAt_of_lt hw, BitVec.getLsbD_setWidth, decide_eq_true hk, Bool.true_and]
    cases signed with
    | false => rw [if_neg Bool.false_ne_true, BitVec.getLsbD_setWidth, decide_eq_true hkn, Bool.true_and]
    | true => rw [if_pos rfl, BitVec.getLsbD_signExtend, decide_eq_true hkn, Bool.true_and, if_pos hk]
  refine Value.eq_of_unsigned_eq ?_
  rw [Value.unsigned_packu, two_mul, ← BitVec.toNat_setWidth, hlow, Value.bits_toNat]

/-! ### The answers -/

theorem exec_word_completes {s : State} {a b : Pair} (h : s.fault = false) (hs : s.cfg.N ∣ s.cfg.W ∨ s.cfg.W ∣ s.cfg.N)
    (hi : (s.operand b).unsigned < wordCount s.cfg.N s.cfg.W) :
    exec (.word a b) s = .next (s.answered
      (Value.packu s.cfg.W (wordAt s.cfg.signed s.cfg.N (s.operand a) (s.operand b).unsigned).toNat) ⟨0, 0⟩ false) := by
  rw [exec, execWord, wordExtract_of_lt_count hs hi, State.perform_plain_eq_answered h]

theorem exec_word_traps {s : State} {a b : Pair} {c : Cause} (h : s.fault = false)
    (he : wordExtract s.cfg.signed s.cfg.N (s.operand a) (s.operand b) = .trap c) :
    exec (.word a b) s = .next (s.trapped c.code.toNat) := by
  rw [exec, execWord, he, State.perform_trap h, State.trapEntry_eq_trapped]

/-- Settles O57: a native width that divides `W` leaves `2W/N` words, one that `W` divides leaves one. -/
theorem wordExtractsTheIndexedWord : Obligations.WordExtractsTheIndexedWord := by
  intro s a b hfault n w i
  refine ⟨fun hdvd hi => ?_, fun hdvd hlt hi => ?_⟩
  · have hle : n ≤ w := Nat.le_of_dvd s.cfg.W_pos hdvd
    refine ⟨_, exec_word_completes hfault (.inl hdvd) (hi.trans_eq (wordCount_of_le hle).symm), ?_⟩
    rw [Value.unsigned_packu, wordAt_of_le hle]
    exact Nat.mod_eq_of_lt ((Nat.mod_lt _ (Nat.two_pow_pos n)).trans_le (pow_le_pow_right₀ one_le_two (by omega)))
  · have hmod : w ≡ n [MOD w] := (Nat.modEq_zero_iff_dvd.mpr dvd_rfl).trans (Nat.modEq_zero_iff_dvd.mpr hdvd).symm
    have htwo : w + w ≤ n := hmod.add_le_of_lt hlt
    have hone : i < wordCount n w := by rw [hi, wordCount_of_lt hlt]; exact one_pos
    rw [exec_word_completes hfault (.inr hdvd) hone, packu_wordAt s.cfg.signed hlt htwo]
    exact ⟨rfl, bval_wordAt s.cfg.signed hlt htwo _ _⟩

/-- Settles O58: the configuration is tested first, and the index against one word or `D/N`. -/
theorem wordTrapsInOrder : Obligations.WordTrapsInOrder := by
  intro s a b hfault n w i
  refine ⟨fun hcfg => exec_word_traps hfault (wordExtract_of_unsupported hcfg), fun hcfg hi => ?_⟩
  have hcount : wordCount n w ≤ i := by
    rcases hi with ⟨hlt, hi⟩ | ⟨hle, hi⟩
    · rwa [wordCount_of_lt hlt]
    · rwa [wordCount_of_le hle]
  exact exec_word_traps hfault (wordExtract_of_count_le hcfg hcount)

end Sys2Proof.Machine
end

section
/-! The trap (60_exceptions.md R130 to R139). An operation performs one effect, which its kind bounds (`exec_cases`), and an
effect performed is a refusal, a completion or a trap entry (`State.perform_cases`): a unit with `FAULT = 1` only refuses, one
with `FAULT = 0` gets `FAULT = 1` by a trap entry alone, and an operation that cannot trap completes. -/

namespace Sys2Proof.Machine

/-! ### The refusal (R133) -/

/-- While `FAULT = 1` the answer of every operation is the refusal. -/
theorem State.perform_eq_refusedAs {s : State} (h : s.fault = true) (e : Effect s.cfg.W) : s.perform e = s.refusedAs :=
  State.perform_of_fault h e

/-- Settles O10: an instruction, and a command of whatever code, performs some effect, and each is refused. -/
theorem faultedUnitRefusesEveryCommand : Obligations.FaultedUnitRefusesEveryCommand := by
  intro s hfault
  refine ⟨fun i => ?_, fun cmd rest hin => ?_⟩
  · obtain ⟨e, hexec, -⟩ := exec_cases i s
    rw [hexec, State.perform_eq_refusedAs hfault]
  · obtain ⟨e, hperform⟩ := performCommand_eq_perform cmd (s.take rest)
    rw [step_of_command hin, hperform, State.perform_eq_refusedAs (s := s.take rest) hfault, State.take]

/-! ### The trap entry (R131, R132) -/

/-- Only a reserved code has the cause code 5, so an operation's is at most 4 (R131). -/
theorem Cause.code_le_four {c : Cause} (h : c ≠ .illegal) : c.code.toNat ≤ 4 := by
  cases c with
  | illegal => exact absurd rfl h
  | overflow | narrow | wordcfg | wordidx => decide

/-- `FAULT` goes from 0 to 1 by a trap entry alone. -/
theorem State.perform_eq_trapEntry_of_fault {s : State} {e : Effect s.cfg.W} (h : s.fault = false)
    (ht : (s.perform e).fault = true) : ∃ c, e = .trap c ∧ s.perform e = s.trapEntry c := by
  obtain ⟨hfault, -⟩ | ⟨-, r, v, o, n, -, hp⟩ | ⟨-, htrap⟩ := s.perform_cases e
  · exact absurd hfault (by simp [h])
  · have hkept : (s.perform e).fault = s.fault := State.fault_congr (by rw [hp, State.complete_status])
    exact absurd (hkept.symm.trans ht) (by simp [h])
  · exact htrap

/-- Settles O18: the effect is a trap its kind allows, so its cause is any but ILLEGAL. -/
theorem trapChangesOnlyStatusAndResponse : Obligations.TrapChangesOnlyStatusAndResponse := by
  intro i s t hfault hexec ht
  obtain ⟨e, he, hallowed⟩ := exec_cases i s
  cases he.symm.trans hexec
  obtain ⟨c, rfl, hp⟩ := State.perform_eq_trapEntry_of_fault hfault ht
  exact ⟨c.code.toNat, c.code_bounds.1, Cause.code_le_four hallowed.2, hp.trans (s.trapEntry_eq_trapped c)⟩

/-! ### The operations that never trap (R139) -/

/-- An operation that cannot trap completes, whatever its results and its flag. -/
theorem exec_completes_of_not_canTrap {i : Instr} {s : State} (h : s.fault = false) (hi : canTrap i = false) :
    ∃ r v o n, exec i s = .next (s.complete r v o n) := by
  obtain ⟨e, hexec, hallowed⟩ := exec_cases i s
  cases e with
  | done r v o n => exact ⟨r, v, o, n, by rw [hexec, State.perform_done h]⟩
  | trap c =>
    obtain ⟨hcan, -⟩ := hallowed
    exact absurd hcan (by simp [hi])

/-- Settles O21: a completion keeps `STATUS` and shows its `FAULT` as the port `trap` (R24). -/
theorem nonTrappingOperationsComplete : Obligations.NonTrappingOperationsComplete := by
  intro i s hfault hi
  obtain ⟨r, v, o, n, hexec⟩ := exec_completes_of_not_canTrap hfault hi
  exact ⟨_, _, hexec, s.complete_status r v o n, s.complete_response r v o n, hfault⟩

end Sys2Proof.Machine
end

section
/-! Reset (70_reset_and_hazards.md R150 to R152). A step that takes a reset clears `STATUS` and the response, whatever they were;
of the other fields the state right after reset (10_state.md R33) fixes the configuration alone. -/

namespace Sys2Proof.Machine

theorem step_of_reset {s : State} {rest : List Input} (h : s.inputs = .reset :: rest) :
    step s = .next (s.take rest).resetUnit := by
  simp [step, h]

/-- A unit that is reset is its configuration's unit after reset, but for the waiting events and the counter (log 4). -/
theorem State.resetUnit_eq_resetOf (s : State) :
    s.resetUnit = { State.resetOf s.cfg with inputs := s.inputs, draws := s.draws } := rfl

/-- Settles O11: the step resets the unit once the event is taken (R150), and taking it changes no other field. -/
theorem resetInputClearsStatus : Obligations.ResetInputClearsStatus := by
  intro s rest hin
  rw [step_of_reset hin, State.resetUnit_eq_resetOf, State.take_cfg, State.take_inputs, State.take_draws]

end Sys2Proof.Machine
end
